-- ==== Sys2Proof/Word.lean ====
section
/-! DEFINITION. The plain words of the model: bytes, characters and 16-bit check words of the line and the profile record,
time in microseconds, and the two fixed-size collections the part has (eight lamp channels, fifteen stations). -/

namespace Sys2Proof

/-- One character of the line, one byte of the profile record. -/
abbrev Byte := BitVec 8

/-- A character as its ten levels on the line, bit 0 the first, true the high level (R194). -/
abbrev Wire := BitVec 10

/-- A CRC-16 check word (R194). -/
abbrev Check := BitVec 16

/-- A time in microseconds. One character time of the line is 160 of them (R149). -/
abbrev Time := Nat

/-- Eight like things, one for each lamp channel 1 to 8 (R131). -/
structure Eight (α : Type) where
  c1 : α
  c2 : α
  c3 : α
  c4 : α
  c5 : α
  c6 : α
  c7 : α
  c8 : α
deriving DecidableEq, Repr, Inhabited

/-- The thing of one channel; index 0 is channel 1. -/
def Eight.get {α : Type} (v : Eight α) (i : Fin 8) : α :=
  match i.val with
  | 0 => v.c1
  | 1 => v.c2
  | 2 => v.c3
  | 3 => v.c4
  | 4 => v.c5
  | 5 => v.c6
  | 6 => v.c7
  | _ => v.c8

/-- A thing made for each channel from its index. -/
def Eight.ofFn {α : Type} (f : Fin 8 → α) : Eight α :=
  ⟨f 0, f 1, f 2, f 3, f 4, f 5, f 6, f 7⟩

/-- The eight things in channel order. -/
def Eight.toList {α : Type} (v : Eight α) : List α :=
  [v.c1, v.c2, v.c3, v.c4, v.c5, v.c6, v.c7, v.c8]

/-- One thing put eight times. -/
def Eight.replicate {α : Type} (a : α) : Eight α := ⟨a, a, a, a, a, a, a, a⟩

/-- The thing of one channel replaced. -/
def Eight.set {α : Type} (v : Eight α) (i : Fin 8) (a : α) : Eight α :=
  Eight.ofFn fun j => if j = i then a else v.get j

/-- Fifteen like things, one for each station 1 to 15 (R22). -/
structure Fifteen (α : Type) where
  s1 : α
  s2 : α
  s3 : α
  s4 : α
  s5 : α
  s6 : α
  s7 : α
  s8 : α
  s9 : α
  s10 : α
  s11 : α
  s12 : α
  s13 : α
  s14 : α
  s15 : α
deriving DecidableEq, Repr, Inhabited

/-- The thing of one station; index 0 is station 1. -/
def Fifteen.get {α : Type} (v : Fifteen α) (i : Fin 15) : α :=
  match i.val with
  | 0 => v.s1
  | 1 => v.s2
  | 2 => v.s3
  | 3 => v.s4
  | 4 => v.s5
  | 5 => v.s6
  | 6 => v.s7
  | 7 => v.s8
  | 8 => v.s9
  | 9 => v.s10
  | 10 => v.s11
  | 11 => v.s12
  | 12 => v.s13
  | 13 => v.s14
  | _ => v.s15

/-- A thing made for each station from its index. -/
def Fifteen.ofFn {α : Type} (f : Fin 15 → α) : Fifteen α :=
  ⟨f 0, f 1, f 2, f 3, f 4, f 5, f 6, f 7, f 8, f 9, f 10, f 11, f 12, f 13, f 14⟩

/-- The fifteen things in station order. -/
def Fifteen.toList {α : Type} (v : Fifteen α) : List α :=
  [v.s1, v.s2, v.s3, v.s4, v.s5, v.s6, v.s7, v.s8, v.s9, v.s10, v.s11, v.s12, v.s13, v.s14, v.s15]

/-- One thing put fifteen times. -/
def Fifteen.replicate {α : Type} (a : α) : Fifteen α :=
  ⟨a, a, a, a, a, a, a, a, a, a, a, a, a, a, a⟩

/-- The thing of one station replaced. -/
def Fifteen.set {α : Type} (v : Fifteen α) (i : Fin 15) (a : α) : Fifteen α :=
  Fifteen.ofFn fun j => if j = i then a else v.get j

/-- Upward-rounded division, written ceil( ) in the manual. -/
def ceilDiv (a b : Nat) : Nat := (a + (b - 1)) / b

end Sys2Proof
end

