-- ==== Sys2Proof/Machine/Types.lean ====
section
/-! DEFINITION. The vocabulary of the manual: the named values its items take (section 11.3), the origin sets, the
demands and shares, the profile settings and the counters. -/

namespace Sys2Proof.Machine

/-- The node states (R182). -/
inductive NodeState where
  | start | listen | active | isolated | clash | fallback
deriving DecidableEq, Repr, Inhabited

/-- The flood stages DRY, WET, RISING, FLOOD, SUBMERGED (00_scope.md section 6). -/
inductive Stage where
  | dry | wet | rising | flood | submerged
deriving DecidableEq, Repr, Inhabited

/-- The debounced state of a float (R8, R9). -/
inductive FloatState where
  | unsettled | dry | wet
deriving DecidableEq, Repr, Inhabited

/-- The position of a pump's switch (R65). An operand is never `unsettled` (WellFormed). -/
inductive SwitchPos where
  | unsettled | off | hand | auto
deriving DecidableEq, Repr, Inhabited

/-- A direction of the gate: CLOSE or OPEN (R111). -/
inductive Dir where
  | toClose | toOpen
deriving DecidableEq, Repr, Inhabited

/-- The position of the local key switch (R113). -/
inductive KeyPos where
  | auto | turned (d : Dir)
deriving DecidableEq, Repr, Inhabited

/-- The gate states UNKNOWN, OPEN, CLOSING, CLOSED, OPENING, HELD, JAMMED (R111). -/
inductive GateState where
  | unknown | opened | closing | closed | opening | held | jammed
deriving DecidableEq, Repr, Inhabited

/-- Why a HELD gate is held (R111). -/
inductive HoldCause where
  | share | command
deriving DecidableEq, Repr, Inhabited

/-- Why the gate is jammed (R111). -/
inductive JamCause where
  | stall | travel | limits
deriving DecidableEq, Repr, Inhabited

/-- The two gate limits (R113). -/
inductive LimitSwitch where
  | openLimit | closedLimit
deriving DecidableEq, Repr, Inhabited

/-- The pump states (R62). -/
inductive PumpState where
  | absent | off | idle | resting | running | suspended | tripped | locked | hand
deriving DecidableEq, Repr, Inhabited

/-- The causes of a pump state (R62; the codes of section 11.3). -/
inductive PumpCause where
  | none | share | sag | overcurrent | dryrun
deriving DecidableEq, Repr, Inhabited

/-- A trip cause (R79, R80). -/
inductive TripCause where
  | overcurrent | dryrun
deriving DecidableEq, Repr, Inhabited

/-- What lines 1 and 2 of R63 ask of a pump: not tripped, tripped and not yet returned, or locked out. -/
inductive PumpFault where
  | none | tripped (c : TripCause) | locked (c : TripCause)
deriving DecidableEq, Repr, Inhabited

/-- Pump 1 or pump 2. -/
inductive PumpNo where
  | one | two
deriving DecidableEq, Repr, Inhabited

/-- The other pump. -/
def PumpNo.other : PumpNo → PumpNo
  | .one => .two
  | .two => .one

/-- The presence of a station record (R22, R30, R31). -/
inductive Presence where
  | absent | fresh | stale | gone
deriving DecidableEq, Repr, Inhabited

/-- The closure phases (section 5.2). -/
inductive Phase where
  | opened | warning | stopping | clearing | sealing | sealed | reopening
deriving DecidableEq, Repr, Inhabited

/-- The lamp classes (R131). -/
inductive LampClass where
  | unused | carriageway | guidance | signalRed | signalAmber | signalGreen
deriving DecidableEq, Repr, Inhabited

/-- The lamp healths (R131). -/
inductive LampHealth where
  | ok | suspect | failed | shorted
deriving DecidableEq, Repr, Inhabited

/-- The ambient bands NIGHT 0, DUSK 1, DAY 2, GLARE 3 (R133). -/
inductive Band where
  | night | dusk | day | glare
deriving DecidableEq, Repr, Inhabited

/-- The signal aspects (R137, R138). -/
inductive Aspect where
  | dark | green | amberWarning | red | redSubstitute
deriving DecidableEq, Repr, Inhabited

/-- The supply now feeding the underpass (R45). -/
inductive Supply where
  | mains | generator
deriving DecidableEq, Repr, Inhabited

/-- Whether a COMMAND names this node or all nodes (R168). -/
inductive Addressing where
  | addressed | broadcast
deriving DecidableEq, Repr, Inhabited

/-- The level marker that means "not valid" (00_scope.md section 5). -/
def invalidLevel : Nat := 65535

/-- A set of closure origins, as a subset of LEVEL, OUTSIDE and COMMAND (section 5.1). -/
structure Origins where
  level : Bool
  outside : Bool
  command : Bool
deriving DecidableEq, Repr, Inhabited

/-- The empty origin set. -/
def Origins.empty : Origins := ⟨false, false, false⟩

/-- The union of two origin sets (R92). -/
def Origins.union (a b : Origins) : Origins :=
  ⟨a.level || b.level, a.outside || b.outside, a.command || b.command⟩

/-- Whether the set has a member: closure is wanted while the union does (R92). -/
def Origins.wanted (a : Origins) : Bool := a.level || a.outside || a.command

/-- One number for each demand class STANDING, MOTION, PUMPING, LIGHTING, in LU (00_scope.md section 6). -/
structure Demands where
  t : Nat
  m : Nat
  p : Nat
  l : Nat
deriving DecidableEq, Repr, Inhabited

/-- Nothing in any class. -/
def Demands.zero : Demands := ⟨0, 0, 0, 0⟩

/-- The six flags of a STATUS (section 11.2). -/
structure StatusFlags where
  joining : Bool
  fallback : Bool
  sag : Bool
  blocked : Bool
  degraded : Bool
  sensorFault : Bool
deriving DecidableEq, Repr, Inhabited

/-- The twenty counters, in the order of the counter table (section 9.6). -/
structure Counters where
  statusSent : Nat
  replySent : Nat
  goodFrames : Nat
  crcErrors : Nat
  formatErrors : Nat
  collisions : Nat
  deferrals : Nat
  giveUps : Nat
  queueDrops : Nat
  statusGaps : Nat
  pump1Starts : Nat
  pump2Starts : Nat
  pump1Minutes : Nat
  pump2Minutes : Nat
  pumpTrips : Nat
  gateClosures : Nat
  gateStalls : Nat
  lampFaults : Nat
  calAccepted : Nat
  calRejected : Nat
deriving DecidableEq, Repr, Inhabited

/-- Every counter 0 (R178). -/
def Counters.zero : Counters := ⟨0, 0, 0, 0, 0, 0, 0, 0, 0, 0, 0, 0, 0, 0, 0, 0, 0, 0, 0, 0⟩

/-- The profile settings of one pump (chapter 4). Times are in seconds, the deglitch in milliseconds. -/
structure PumpProfile where
  present : Bool
  ratedDraw : Nat
  minDuty : Nat
  handDuty : Nat
  tripLevel : Nat
  tripDeglitch : Nat
  dryLevel : Nat
  dryDelay : Nat
  latch : Bool
  retryTime : Nat
  lockoutLimit : Nat
  restTime : Nat
deriving DecidableEq, Repr, Inhabited

/-- The profile settings of the gate (chapter 6). The travel maximum is in seconds, the deglitch in milliseconds. -/
structure GateProfile where
  present : Bool
  ratedDraw : Nat
  travelMax : Nat
  stallLevel : Nat
  stallDeglitch : Nat
  stallRetries : Nat
deriving DecidableEq, Repr, Inhabited

/-- The profile settings of one lamp channel (R131). -/
structure LampProfile where
  cls : LampClass
  ratedDraw : Nat
  mountHeight : Nat
deriving DecidableEq, Repr, Inhabited

/-- A flash pattern, in ticks of 100 ms (R139). -/
structure Pattern where
  on : Nat
  off : Nat
deriving DecidableEq, Repr, Inhabited

/-- The settings of the profile record (section 11.6), each in the unit its chapter gives: report period in ms, times
in seconds, heights and levels in mm, powers in LU, thresholds in codes. -/
structure Profile where
  reportPeriod : Nat
  mainsCapacity : Nat
  generatorCapacity : Nat
  reserve : Nat
  derate : Nat
  sagThreshold : Nat
  sagHold : Nat
  localAllowance : Nat
  zeroNominal : Nat
  fullScale : Nat
  span : Nat
  driftLimit : Nat
  settleTime : Nat
  t1 : Nat
  t2 : Nat
  t3 : Nat
  t4 : Nat
  hysteresis : Nat
  setLevel : Nat
  narrowBand : Nat
  wideBand : Nat
  stepSize : Nat
  calibrationCount : Nat
  filterLimit : Nat
  pump1 : PumpProfile
  pump2 : PumpProfile
  gate : GateProfile
  warnTime : Nat
  clearanceTime : Nat
  maxClearTime : Nat
  reopenHold : Nat
  a1 : Nat
  a2 : Nat
  a3 : Nat
  nightLevel : Nat
  duskLevel : Nat
  dayLevel : Nat
  glareLevel : Nat
  minLevel : Nat
  submergenceMargin : Nat
  openThreshold : Nat
  shortThreshold : Nat
  warningPattern : Pattern
  guidancePattern : Pattern
  substitutePattern : Pattern
  lamps : Eight LampProfile
deriving DecidableEq, Repr, Inhabited

/-- A pump of which the profile says nothing. -/
def PumpProfile.blank : PumpProfile := ⟨false, 0, 0, 0, 0, 0, 0, 0, false, 0, 0, 0⟩

/-- A gate of which the profile says nothing. -/
def GateProfile.blank : GateProfile := ⟨false, 0, 0, 0, 0, 0⟩

/-- The built-in lamp classes of START and FALLBACK (section 7.10). -/
def builtInLamps : Eight LampProfile :=
  ⟨⟨.signalRed, 0, 0⟩, ⟨.signalAmber, 0, 0⟩, ⟨.signalGreen, 0, 0⟩, ⟨.guidance, 0, 0⟩,
   ⟨.guidance, 0, 0⟩, ⟨.carriageway, 0, 0⟩, ⟨.carriageway, 0, 0⟩, ⟨.carriageway, 0, 0⟩⟩

/-- What stands in place of a profile while none is valid: the FALLBACK report period of 250 ms (R193), the built-in
lamp classes (R147), and nothing else (log 5). -/
def Profile.blank : Profile where
  reportPeriod := 250
  mainsCapacity := 0
  generatorCapacity := 0
  reserve := 0
  derate := 0
  sagThreshold := 0
  sagHold := 0
  localAllowance := 0
  zeroNominal := 0
  fullScale := 0
  span := 0
  driftLimit := 0
  settleTime := 0
  t1 := 0
  t2 := 0
  t3 := 0
  t4 := 0
  hysteresis := 0
  setLevel := 0
  narrowBand := 0
  wideBand := 0
  stepSize := 0
  calibrationCount := 0
  filterLimit := 0
  pump1 := PumpProfile.blank
  pump2 := PumpProfile.blank
  gate := GateProfile.blank
  warnTime := 0
  clearanceTime := 0
  maxClearTime := 0
  reopenHold := 0
  a1 := 0
  a2 := 0
  a3 := 0
  nightLevel := 0
  duskLevel := 0
  dayLevel := 0
  glareLevel := 0
  minLevel := 0
  submergenceMargin := 0
  openThreshold := 0
  shortThreshold := 0
  warningPattern := ⟨0, 0⟩
  guidancePattern := ⟨0, 0⟩
  substitutePattern := ⟨0, 0⟩
  lamps := builtInLamps

/-- The profile of pump n. -/
def Profile.pump (p : Profile) : PumpNo → PumpProfile
  | .one => p.pump1
  | .two => p.pump2

/-- What the retention domain keeps of one pump: its trip count, and a LOCKED or latched TRIPPED state with its cause
(R188). -/
structure RetainedPump where
  tripCount : Nat
  fault : PumpFault
deriving DecidableEq, Repr, Inhabited

/-- The items of the retention domain (R188). The closure phase is kept as its code, which need not be one of the seven
(R108). -/
structure Retained where
  zeroCode : Nat
  pump1 : RetainedPump
  pump2 : RetainedPump
  lead : PumpNo
  gateState : GateState
  gateDir : Option Dir
  gateJam : Option JamCause
  phaseCode : Nat
  command : Bool
  healths : Eight LampHealth
  counters : Counters
deriving DecidableEq, Repr, Inhabited

end Sys2Proof.Machine
end

