-- ==== Sys2Proof/Syntax.lean ====
section
/-! DEFINITION. The commands: one constructor for each row of spec/opcode_table.json, in the table's order, with the
operands the row's rule needs (the table gives no row any bits). Codes are the converter codes 0 to 4095 of the readings
the event makes. A character of another station is the ten levels it has on the line; of a character read back, COLLISION has
the data bits and whether the stop bit was at the stop level. -/

namespace Sys2Proof

open Sys2Proof.Machine

/-- The straps as they stand when START begins, and whether the backup supply on VBK is connected (R185, R188). -/
structure StartPins where
  station : Nat
  retain : Bool
  backup : Bool
deriving DecidableEq, Repr, Inhabited

/-- What a START reads by its end: the station strap and the RETAIN strap, where a RESTART began it (R184, R185; the other
starts read them as they begin), the bytes received from the serial memory (R186), the two gate limits (R113) and the GEN
input (R45). -/
structure StartReads where
  station : Nat
  retain : Bool
  record : List Byte
  openLimit : Bool
  closedLimit : Bool
  generator : Bool
deriving DecidableEq, Repr, Inhabited

/-- What one sample reads: the transducer's code and each float, wet or dry (R1). -/
structure SampleReads where
  code : Nat
  dryFloatWet : Bool
  highFloatWet : Bool
deriving DecidableEq, Repr, Inhabited

/-- What one lamp tick reads: the ambient code and the current code of each channel (R132). -/
structure LampReads where
  ambient : Nat
  currents : Eight Nat
deriving DecidableEq, Repr, Inhabited

/-- The character that starts on the line: the next one of the node's own transmission, or one of another station,
`wait` microseconds after the event before it, with the levels it has on the line (R149, R194). -/
inductive LineChar where
  | own
  | other (wait : Time) (wire : Wire)
deriving DecidableEq, Repr, Inhabited

/-- The commands and events of the part (spec/opcode_table.json). -/
inductive Instr where
  | powerOn (p : StartPins)
  | resetPinAssert
  | resetPinRelease (p : StartPins)
  | brownOut
  | brownOutRecovery (p : StartPins)
  | endOfStart (r : StartReads)
  | sample (r : SampleReads)
  | sensorFaultSet (r : SampleReads)
  | sensorFaultClear (r : SampleReads)
  | floatChange (r : SampleReads)
  | calibrationComplete (r : SampleReads)
  | frameClose
  | recordStale (st : Fin 15)
  | recordGone (st : Fin 15)
  | lineSilenceExpiry
  | supplySourceChange (source : Supply)
  | ownSagSet (code : Nat)
  | ownSagClear (code : Nat)
  | sagHoldEnd
  | loopStep
  | switchChange (n : PumpNo) (pos : SwitchPos)
  | restTimerExpiry (n : PumpNo)
  | overcurrentTrip (n : PumpNo) (code : Nat)
  | dryrunTrip (n : PumpNo) (code : Nat)
  | retryExpiry (n : PumpNo)
  | dryStageClear
  | runMinute (n : PumpNo)
  | outsideFilterChange (active : Bool)
  | warnTimerExpiry
  | clearanceTimerExpiry
  | presenceClear
  | maxClearExpiry
  | reopenHoldExpiry
  | limitChange (which : LimitSwitch) (active : Bool)
  | keyTakeover (d : Dir)
  | keyRelease
  | gateStall (code : Nat)
  | backoffEnd
  | travelMaximum
  | lampTick (r : LampReads)
  | lampFailed (r : LampReads)
  | lampShorted (r : LampReads)
  | lineCharacter (c : LineChar)
  | attemptStart
  | retryStart
  | collision (readBack : Byte) (stopOk : Bool)
  | attemptComplete
  | reportTimerExpiry
  | close (dest : Addressing)
  | reopen (dest : Addressing)
  | gateStop (dest : Addressing)
  | gateRelease (dest : Addressing)
  | pumpManual (dest : Addressing) (n duty : Byte)
  | pumpAuto (dest : Addressing) (n : Byte)
  | lampManual (dest : Addressing) (ch level : Byte)
  | lampAuto (dest : Addressing) (ch : Byte)
  | calibrate (dest : Addressing)
  | clear (dest : Addressing)
  | query (dest : Addressing) (page : Byte)
  | dump (dest : Addressing)
  | dumpAndZero (dest : Addressing)
  | restart (dest : Addressing)
  | listenTimerExpiry
  | backupSupplyLoss
deriving DecidableEq, Repr, Inhabited

end Sys2Proof
end

