-- ==== Sys2Proof/Config.lean ====
section
/-! DEFINITION. What an implementation fixes and the manual leaves open: the free values. -/

namespace Sys2Proof

/-- The contents of a retention domain that has lost both supplies (R188: "The contents and the check are lost"). The
manual says nothing of them, so they are a free value, one for each loss (assumption log 9). -/
opaque Config.lostRetention : Nat → Machine.Retained

end Sys2Proof
end

