-- ==== Sys2Proof/Machine/State.lean ====
section
/-! DEFINITION. The state of the part as plain data: one structure for each block of 00_scope.md section 3, the pins of
section 11.7, the retention domain, and the queue of waiting commands. Times are microseconds. -/

namespace Sys2Proof.Machine

open Sys2Proof

/-- The input pins (section 11.7) as they last stood: each level is the one the last command that reported it gave
(assumption log 4). Floats: true is wet. Limits, outside detector, RESET and RETAIN: true is active. -/
structure Pins where
  level : Nat
  ambient : Nat
  feederSense : Nat
  pump1Current : Nat
  pump2Current : Nat
  gateCurrent : Nat
  lampCurrents : Eight Nat
  dryFloat : Bool
  highFloat : Bool
  outsideWater : Bool
  loopClear : Bool
  source : Supply
  switch1 : SwitchPos
  switch2 : SwitchPos
  key : KeyPos
  openLimit : Bool
  closedLimit : Bool
  station : Nat
  retain : Bool
  backup : Bool
  mainSupply : Bool
  resetHeld : Bool
deriving DecidableEq, Repr, Inhabited

/-- The node state machine's items (chapter 10). `station` is the station number less 1; `strapZero` says that the
station strap read 0 (R185). `strapsDue` says that a RESTART began the START under way, whose strap readings END_OF_START brings
(R184, R185; assumption log 35). `readClock` is the time since the node left START, on which the 10 ms and 100 ms reads
fall. -/
structure Node where
  state : NodeState
  listenTimer : Time
  station : Fin 15
  strapZero : Bool
  retainReading : Bool
  strapsDue : Bool
  profileValid : Bool
  retentionValid : Bool
  readClock : Time
deriving DecidableEq, Repr, Inhabited

/-- The private SPI link: the bytes sent and received in its last transaction (R186). -/
structure SpiLink where
  sent : List Byte
  received : List Byte
deriving DecidableEq, Repr, Inhabited

/-- One float (R8): debounced state, candidate (none while empty; true is wet) and agreement count. -/
structure FloatInput where
  debounced : FloatState
  candidate : Option Bool
  count : Nat
deriving DecidableEq, Repr, Inhabited

/-- The calibration collector (R15, R18). -/
structure Collector where
  underWay : Bool
  sum : Nat
  count : Nat
deriving DecidableEq, Repr, Inhabited

/-- The level monitor (chapter 1). The settle timer is none while a pump start has it stopped (R14). -/
structure LevelMonitor where
  sampleTimer : Time
  ring : List Nat
  zeroCode : Nat
  outRun : Nat
  sensorFault : Bool
  recoveryRun : Nat
  level : Nat
  dry : FloatInput
  high : FloatInput
  stage : Stage
  settle : Option Time
  armed : Bool
  collector : Collector
  drift : Bool
deriving DecidableEq, Repr, Inhabited

/-- The report fields of a station record (R23). The gate state is none where the sender has no gate. -/
structure Report where
  period : Nat
  nodeState : NodeState
  flags : StatusFlags
  stage : Stage
  level : Nat
  origins : Origins
  phase : Phase
  gate : Option GateState
  demands : Demands
  shares : Demands
deriving DecidableEq, Repr, Inhabited

/-- A station record (section 2.1). The sticky origins are none while absent. -/
structure StationRecord where
  presence : Presence
  lastSeq : Nat
  heard : Time
  report : Report
  sticky : Option Origins
deriving DecidableEq, Repr, Inhabited

/-- The bay picture (chapter 2): the fifteen records and the line-silence timer with its expired condition (R38). -/
structure Picture where
  records : Fifteen StationRecord
  silence : Time
  expired : Bool
deriving DecidableEq, Repr, Inhabited

/-- The allotment unit (chapter 3). `genHeld` is how long the GEN filter's candidate has held, none without a candidate
(R45). `sense` is the feeder-sense code as last converted, under which the two runs count (R46). `sagHold` is none while
STOPPED (R47). -/
structure Allotment where
  source : Supply
  genHeld : Option Time
  ownSag : Bool
  sense : Nat
  underRun : Time
  recoverRun : Time
  sagHold : Option Time
  usable : Nat
  shares : Demands
  overrun : Bool
deriving DecidableEq, Repr, Inhabited

/-- A rest timer (R78): counting since the stop, or done once its expiry has been taken. -/
inductive RestTimer where
  | counting (t : Time) | done
deriving DecidableEq, Repr, Inhabited

/-- A debounced pump switch (R65): position, candidate (none while empty) and agreement count. -/
structure SwitchInput where
  debounced : SwitchPos
  candidate : Option SwitchPos
  count : Nat
deriving DecidableEq, Repr, Inhabited

/-- A pump record (R62). `fault` is what lines 1 and 2 of R63 ask. `remote` says that the mode is REMOTE MANUAL. The retry
timer is none while stopped. -/
structure PumpRec where
  state : PumpState
  cause : PumpCause
  fault : PumpFault
  remote : Bool
  manualDuty : Nat
  want : Nat
  ceiling : Nat
  duty : Nat
  rest : RestTimer
  retry : Option Time
  tripCount : Nat
  latched : Bool
  overRun : Time
  dryRun : Time
  runAcc : Time
  switch : SwitchInput
deriving DecidableEq, Repr, Inhabited

/-- The dry-stage timer (R83): stopped while the stage is not DRY, counting, or held after its clear. -/
inductive DryStageTimer where
  | stopped | counting (t : Time) | held
deriving DecidableEq, Repr, Inhabited

/-- The pump controller (chapter 4). -/
structure Pumps where
  p1 : PumpRec
  p2 : PumpRec
  want : Nat
  settled : Bool
  lead : PumpNo
  loopTimer : Time
  dryStage : DryStageTimer
deriving DecidableEq, Repr, Inhabited

/-- The closure controller (chapter 5). The outside candidate's time is none without a candidate. `loopRead` is the
presence loop as last read, true for clear, and `loopClock` the time since entry to CLEARING, on which its reads fall (R97,
assumption log 26). The reopen hold is none while STOPPED (R102). -/
structure Closure where
  phase : Phase
  own : Origins
  outside : Bool
  outsideHeld : Option Time
  warnTimer : Time
  clearanceTimer : Time
  loopRead : Bool
  loopClock : Time
  presenceRun : Time
  maxClearTimer : Time
  reopenHold : Option Time
  blocked : Bool
deriving DecidableEq, Repr, Inhabited

/-- A debounced gate limit (R113): true is active; the reads that differ from the debounced level so far. -/
structure LimitInput where
  active : Bool
  count : Nat
deriving DecidableEq, Repr, Inhabited

/-- The debounced local key switch (R113). -/
structure KeyInput where
  debounced : KeyPos
  candidate : Option KeyPos
  count : Nat
deriving DecidableEq, Repr, Inhabited

/-- The gate record (R111) with its debounced inputs and the motor current code as last converted (R113). `demand` is none
for NONE. The back-off is none while absent. `keyBarred` says that the opposite limit was met under the key, which drives no
further until its release (R122, assumption log 16). -/
structure Gate where
  state : GateState
  dir : Option Dir
  holdCause : Option HoldCause
  commandHold : Bool
  demand : Option Dir
  keyDrive : Option Dir
  keyStalled : Bool
  keyBarred : Bool
  travel : Time
  retries : Nat
  backoff : Option Time
  stallRun : Time
  jam : Option JamCause
  openLimit : LimitInput
  closedLimit : LimitInput
  key : KeyInput
  code : Nat
deriving DecidableEq, Repr, Inhabited

/-- A lamp record (R131); class, rated draw and mount height are the profile's. `manual` is the manual level in REMOTE
MANUAL and none in AUTO. -/
structure LampRec where
  manual : Option Nat
  health : LampHealth
  filterCount : Nat
  shortRun : Nat
  submerged : Bool
  output : Nat
deriving DecidableEq, Repr, Inhabited

/-- The lamp controller (chapter 7). `bandFormed` says that a tick has formed the band since START (R133). -/
structure Lamps where
  recs : Eight LampRec
  lampTimer : Time
  band : Band
  bandFormed : Bool
  common : Nat
  aspect : Aspect
  amberCounter : Nat
  guidanceCounter : Nat
  degraded : Bool
deriving DecidableEq, Repr, Inhabited

/-- An entry of the transmit queue: a STATUS marker, or a REPLY with its payload (section 8.3). -/
inductive Entry where
  | status
  | reply (payload : List Byte)
deriving DecidableEq, Repr, Inhabited

/-- What the entry in flight waits for (section 8). With an entry in flight, NONE means that it is transmitting. -/
inductive Access where
  | none | defer | backoff (k : Nat)
deriving DecidableEq, Repr, Inhabited

/-- The entry in flight: its kind, its characters once they are fixed (R158), and how many of them have started in the
present attempt. -/
structure Flight where
  entry : Entry
  frame : Option (List Byte)
  sent : Nat
deriving DecidableEq, Repr, Inhabited

/-- Whose character started last on the line (R154). -/
inductive LastChar where
  | none | own | other
deriving DecidableEq, Repr, Inhabited

/-- The frame being assembled (R150): the characters kept, how many there were, and whether a stop bit was missing. -/
structure RxFrame where
  kept : List Byte
  count : Nat
  badStop : Bool
deriving DecidableEq, Repr, Inhabited

/-- The line controller (chapter 8). `sinceOwn` is the time since the node's own last character started, by which its
characters follow one another (section 8.1). `tail` is the node's own character that started last before a frame of its was cut,
none before any was: it goes on to its end (R165, R183). `replyLeft` is its report that a RESTART REPLY has left the queue; it lives within one
event (R165). -/
structure Line where
  waiting : List Entry
  flight : Option Flight
  attempts : Nat
  newer : Bool
  access : Access
  silence : Time
  sinceOwn : Time
  tail : Option Byte
  lastChar : LastChar
  reportTimer : Time
  ownSeq : Nat
  lastShares : Demands
  rx : Option RxFrame
  echo : Bool
  replyLeft : Bool
deriving DecidableEq, Repr, Inhabited

/-- The retention domain (R188): its items, and whether the check matches them (assumption log 9). -/
structure Retention where
  items : Retained
  intact : Bool
deriving DecidableEq, Repr, Inhabited

/-- The whole part. `pending` is the queue of waiting commands, first in first out; `freeIndex` picks the next free value
(assumption log 9); the other fields are the spec's. -/
structure State where
  pins : Pins
  node : Node
  profile : Profile
  spi : SpiLink
  level : LevelMonitor
  picture : Picture
  allot : Allotment
  demands : Demands
  pumps : Pumps
  closure : Closure
  gate : Gate
  lamps : Lamps
  line : Line
  restartPending : Bool
  counters : Counters
  retention : Retention
  freeIndex : Nat
  pending : List Instr
deriving DecidableEq, Repr, Inhabited

/-- No command of this part stops the machine: the spec gives every command its effect in every state, if only none
(INVENTORY.md, Faults). There is therefore no fault, and none is raised by anything. -/
inductive Fault where
deriving DecidableEq, Repr

/-- Why a command is refused. -/
inductive Refusal where
  /-- Raised by a command that has no meaning yet. Safe: the run ends. No command of this model raises it. -/
  | notModelled (mnemonic : String)
deriving DecidableEq, Repr

/-- A float at each start (R9). -/
def FloatInput.unsettled : FloatInput := ⟨.unsettled, none, 0⟩

/-- The level monitor in START and at the end of START, but for the zero code (R20, R21). -/
def LevelMonitor.atStart (zero : Nat) : LevelMonitor where
  sampleTimer := 0
  ring := []
  zeroCode := zero
  outRun := 0
  sensorFault := false
  recoveryRun := 0
  level := invalidLevel
  dry := FloatInput.unsettled
  high := FloatInput.unsettled
  stage := .dry
  settle := some 0
  armed := true
  collector := ⟨false, 0, 0⟩
  drift := false

/-- The report fields of a record at a start (R41). R41 gives no closure phase; OPEN is the model's (assumption log 45). -/
def Report.atStart : Report :=
  ⟨1000, .listen, ⟨false, false, false, false, false, false⟩, .dry, invalidLevel, Origins.empty, .opened, none,
   Demands.zero, Demands.zero⟩

/-- A record at a start (R41). -/
def StationRecord.atStart : StationRecord := ⟨.absent, 0, 0, Report.atStart, none⟩

/-- The bay picture at a start (R41). The line-silence timer, which R39 and R41 leave stopped, stands at 0 and not expired
while it is stopped (assumption log 45). -/
def Picture.atStart : Picture := ⟨Fifteen.replicate StationRecord.atStart, 0, false⟩

/-- The allotment unit at a start, with the supply source read (R61) and the feeder-sense code as it then stands. -/
def Allotment.atStart (source : Supply) (sense : Nat) : Allotment :=
  ⟨source, none, false, sense, 0, 0, none, 0, Demands.zero, false⟩

/-- A pump record at a start without retention (R88), before its state is derived. -/
def PumpRec.atStart : PumpRec where
  state := .off
  cause := .none
  fault := .none
  remote := false
  manualDuty := 0
  want := 0
  ceiling := 0
  duty := 0
  rest := .counting 0
  retry := none
  tripCount := 0
  latched := false
  overRun := 0
  dryRun := 0
  runAcc := 0
  switch := ⟨.unsettled, none, 0⟩

/-- The pump controller at a start without retention (R88). -/
def Pumps.atStart : Pumps := ⟨PumpRec.atStart, PumpRec.atStart, 0, false, .one, 0, .stopped⟩

/-- The closure controller in START (assumption log 5), and in FALLBACK (R110). -/
def Closure.atStart : Closure :=
  ⟨.stopping, Origins.empty, false, none, 0, 0, false, 0, 0, 0, none, false⟩

/-- The gate record in START (R129, R130). -/
def Gate.atStart : Gate where
  state := .unknown
  dir := none
  holdCause := none
  commandHold := false
  demand := none
  keyDrive := none
  keyStalled := false
  keyBarred := false
  travel := 0
  retries := 0
  backoff := none
  stallRun := 0
  jam := none
  openLimit := ⟨false, 0⟩
  closedLimit := ⟨false, 0⟩
  key := ⟨.auto, none, 0⟩
  code := 0

/-- A lamp record in START: channels 4 and 5 lit steady at 100 %, every other channel at 0 (R146). -/
def LampRec.inStart (i : Fin 8) : LampRec :=
  ⟨none, .ok, 0, 0, false, if i = 3 ∨ i = 4 then 100 else 0⟩

/-- The lamp controller in START (R146, R148). -/
def Lamps.inStart : Lamps := ⟨Eight.ofFn LampRec.inStart, 0, .night, false, 0, .dark, 0, 0, false⟩

/-- The line controller at a start (R167). -/
def Line.atStart : Line where
  waiting := []
  flight := none
  attempts := 0
  newer := false
  access := .none
  silence := 0
  sinceOwn := 0
  tail := none
  lastChar := .none
  reportTimer := 0
  ownSeq := 0
  lastShares := Demands.zero
  rx := none
  echo := false
  replyLeft := false

/-- The retained items of a domain that R189 writes where retention is not valid, at a start into FALLBACK. -/
def Retained.blank : Retained where
  zeroCode := 65535
  pump1 := ⟨0, .none⟩
  pump2 := ⟨0, .none⟩
  lead := .one
  gateState := .unknown
  gateDir := none
  gateJam := none
  phaseCode := 0
  command := false
  healths := Eight.replicate .ok
  counters := Counters.zero

/-- The input pins at reset: nothing active, no current, dry, the mains feeding, the feeder up, station strap 1, RETAIN
inactive, no backup supply (assumption log 4). -/
def Pins.reset : Pins where
  level := 0
  ambient := 0
  feederSense := 4095
  pump1Current := 0
  pump2Current := 0
  gateCurrent := 0
  lampCurrents := Eight.replicate 0
  dryFloat := false
  highFloat := false
  outsideWater := false
  loopClear := true
  source := .mains
  switch1 := .off
  switch2 := .off
  key := .auto
  openLimit := false
  closedLimit := false
  station := 1
  retain := false
  backup := false
  mainSupply := true
  resetHeld := false

/-- The machine right after reset: a power-on has just begun START, with the pins of `Pins.reset` (R183, R184;
assumption logs 4 and 5). -/
def State.reset : State where
  pins := Pins.reset
  node := ⟨.start, 0, 0, false, false, false, false, false, 0⟩
  profile := Profile.blank
  spi := ⟨[], []⟩
  level := LevelMonitor.atStart 65535
  picture := Picture.atStart
  allot := Allotment.atStart .mains 4095
  demands := Demands.zero
  pumps := Pumps.atStart
  closure := Closure.atStart
  gate := Gate.atStart
  lamps := Lamps.inStart
  line := Line.atStart
  restartPending := false
  counters := Counters.zero
  retention := ⟨Retained.blank, false⟩
  freeIndex := 0
  pending := []

end Sys2Proof.Machine
end

