-- ==== Sys2Proof/Machine/Operands.lean ====
section
/-! DEFINITION. The operand forms: how bytes spell the manual's values and back (chapter 11). Codes of section 11.3,
the CRC-16 of R194, the line frame, the STATUS payload and its content checks (R24), the COMMAND payload (section 9.1),
and the profile record with its checks (R187, section 11.6). -/

namespace Sys2Proof.Machine

open Sys2Proof

/-- A number as one byte. -/
def byte (n : Nat) : Byte := BitVec.ofNat 8 n

/-- A number as two bytes, the more significant first (chapter 11). -/
def twoBytes (n : Nat) : List Byte := [byte (n / 256), byte n]

/-- A condition as bit k of a byte. -/
def bitIf (b : Bool) (k : Nat) : Nat := if b then 2 ^ k else 0

/-- Bit k of a byte. -/
def bitOf (b : Byte) (k : Nat) : Bool := b.getLsbD k

/-- Byte i of a list, 0 beyond its end. -/
def byteAt (bs : List Byte) (i : Nat) : Byte := bs.getD i 0

/-- Byte i of a list as a number. -/
def natAt (bs : List Byte) (i : Nat) : Nat := (byteAt bs i).toNat

/-- Bytes i and i + 1 as a number, the more significant first. -/
def wordAt (bs : List Byte) (i : Nat) : Nat := natAt bs i * 256 + natAt bs (i + 1)

/-! ### The character on the line (R194) -/

/-- The ten levels of a character, the first in bit 0: a low start bit, the data bits from the least significant, a high stop
bit. -/
def wireOf (c : Byte) : Wire := (1#1 ++ c) ++ 0#1

/-- The data bits of the levels of a character. -/
def wireByte (w : Wire) : Byte := w.extractLsb' 1 8

/-- Whether the stop bit is at the stop level, high. -/
def wireStop (w : Wire) : Bool := w.getLsbD 9

/-! ### The CRC-16 (R194) -/

/-- One data bit into the register. -/
def crcBit (r : Check) (d : Bool) : Check :=
  if r.getLsbD 15 != d then (r <<< 1) ^^^ 0x1021#16 else r <<< 1

/-- One byte into the register, most significant bit first. -/
def crcByte (r : Check) (b : Byte) : Check :=
  [7, 6, 5, 4, 3, 2, 1, 0].foldl (fun r k => crcBit r (bitOf b k)) r

/-- The check of a run of bytes: register preset to FFFFh, no inversion. -/
def crc16 (bs : List Byte) : Check := bs.foldl crcByte 0xFFFF#16

/-! ### Codes (section 11.3) -/

def NodeState.code : NodeState → Nat
  | .start => 0 | .listen => 1 | .active => 2 | .isolated => 3 | .clash => 4 | .fallback => 5

/-- The node states a STATUS may carry (R24). -/
def NodeState.ofStatusCode : Nat → Option NodeState
  | 1 => some .listen | 2 => some .active | 3 => some .isolated | 5 => some .fallback | _ => none

def Stage.num : Stage → Nat
  | .dry => 0 | .wet => 1 | .rising => 2 | .flood => 3 | .submerged => 4

def Stage.ofNum : Nat → Option Stage
  | 0 => some .dry | 1 => some .wet | 2 => some .rising | 3 => some .flood | 4 => some .submerged | _ => none

def Phase.code : Phase → Nat
  | .opened => 0 | .warning => 1 | .stopping => 2 | .clearing => 3 | .sealing => 4 | .sealed => 5 | .reopening => 6

def Phase.ofCode : Nat → Option Phase
  | 0 => some .opened | 1 => some .warning | 2 => some .stopping | 3 => some .clearing | 4 => some .sealing
  | 5 => some .sealed | 6 => some .reopening | _ => none

def GateState.code : GateState → Nat
  | .unknown => 0 | .opened => 1 | .closing => 2 | .closed => 3 | .opening => 4 | .held => 5 | .jammed => 6

def GateState.ofCode : Nat → Option GateState
  | 0 => some .unknown | 1 => some .opened | 2 => some .closing | 3 => some .closed | 4 => some .opening
  | 5 => some .held | 6 => some .jammed | _ => none

def PumpState.code : PumpState → Nat
  | .absent => 0 | .off => 1 | .idle => 2 | .resting => 3 | .running => 4 | .suspended => 5 | .tripped => 6
  | .locked => 7 | .hand => 8

def PumpCause.code : PumpCause → Nat
  | .none => 0 | .share => 1 | .sag => 2 | .overcurrent => 3 | .dryrun => 4

def Presence.code : Presence → Nat
  | .absent => 0 | .fresh => 1 | .stale => 2 | .gone => 3

def SwitchPos.code : SwitchPos → Nat
  | .unsettled => 0 | .off => 1 | .hand => 2 | .auto => 3

def LampClass.code : LampClass → Nat
  | .unused => 0 | .carriageway => 1 | .guidance => 2 | .signalRed => 3 | .signalAmber => 4 | .signalGreen => 5

def LampClass.ofCode : Nat → Option LampClass
  | 0 => some .unused | 1 => some .carriageway | 2 => some .guidance | 3 => some .signalRed | 4 => some .signalAmber
  | 5 => some .signalGreen | _ => none

def LampHealth.code : LampHealth → Nat
  | .ok => 0 | .suspect => 1 | .failed => 2 | .shorted => 3

def Band.num : Band → Nat
  | .night => 0 | .dusk => 1 | .day => 2 | .glare => 3

def Aspect.code : Aspect → Nat
  | .dark => 0 | .green => 1 | .amberWarning => 2 | .red => 3 | .redSubstitute => 4

/-- Direction: 0 CLOSE, 1 OPEN, FFh absent. -/
def dirCode : Option Dir → Nat
  | some .toClose => 0 | some .toOpen => 1 | none => 255

/-- Closure demand: 0 NONE, 1 CLOSE, 2 OPEN. -/
def demandCode : Option Dir → Nat
  | none => 0 | some .toClose => 1 | some .toOpen => 2

def holdCode : Option HoldCause → Nat
  | some .share => 0 | some .command => 1 | none => 255

def jamCode : Option JamCause → Nat
  | some .stall => 0 | some .travel => 1 | some .limits => 2 | none => 255

/-- Key drive: FFh absent, 0 CLOSE, 1 OPEN, 80h added while key-stalled. -/
def keyCode (k : Option Dir) (stalled : Bool) : Nat :=
  match k with
  | none => 255
  | some .toClose => bitIf stalled 7
  | some .toOpen => 1 + bitIf stalled 7

def PumpNo.num : PumpNo → Nat
  | .one => 1 | .two => 2

/-- An origin set in the own-origin encoding of section 11.2. -/
def Origins.code (o : Origins) : Nat := bitIf o.level 0 + bitIf o.outside 1 + bitIf o.command 2

/-- The flags byte of a STATUS. -/
def StatusFlags.code (f : StatusFlags) : Nat :=
  bitIf f.joining 0 + bitIf f.fallback 1 + bitIf f.sag 2 + bitIf f.blocked 3 + bitIf f.degraded 4 + bitIf f.sensorFault 5

/-- The four classes, one byte each. -/
def Demands.bytes (d : Demands) : List Byte := [byte d.t, byte d.m, byte d.p, byte d.l]

/-- The twenty counters, two bytes each, in the order of the counter table (R195). -/
def Counters.toList (c : Counters) : List Nat :=
  [c.statusSent, c.replySent, c.goodFrames, c.crcErrors, c.formatErrors, c.collisions, c.deferrals, c.giveUps,
   c.queueDrops, c.statusGaps, c.pump1Starts, c.pump2Starts, c.pump1Minutes, c.pump2Minutes, c.pumpTrips,
   c.gateClosures, c.gateStalls, c.lampFaults, c.calAccepted, c.calRejected]

/-! ### The line frame (section 11.1) -/

/-- The sync character. -/
def syncChar : Byte := 0xB6#8

/-- The source character of a station: its number. -/
def stationByte (st : Fin 15) : Byte := byte (st.val + 1)

/-- A whole frame: sync, kind, source, destination, sequence, length, payload, check. -/
def frameOf (kind src dest seq : Byte) (payload : List Byte) : List Byte :=
  let body := [kind, src, dest, seq, byte payload.length] ++ payload
  let c := (crc16 body).toNat
  syncChar :: (body ++ twoBytes c)

/-- The kind codes. -/
def kindStatus : Byte := 1#8
def kindCommand : Byte := 2#8
def kindReply : Byte := 3#8

/-! ### The STATUS payload (section 11.2) -/

/-- The content checks of R24 on a payload, the last two requiring the unnamed bits to be 0. -/
def statusContentOk (p : List Byte) : Bool :=
  decide (p.length = 20) &&
  decide (2 ≤ natAt p 0 ∧ natAt p 0 ≤ 20) &&
  (NodeState.ofStatusCode (natAt p 1)).isSome &&
  decide (natAt p 2 < 64) &&
  decide (natAt p 3 ≤ 4) &&
  decide (wordAt p 4 ≤ 8000 ∨ wordAt p 4 = 65535) &&
  decide (natAt p 6 < 8) &&
  (Phase.ofCode (natAt p 7)).isSome &&
  ((GateState.ofCode (natAt p 8)).isSome || decide (natAt p 8 = 255))

/-- The report a payload carries (R23). -/
def reportOf (p : List Byte) : Report where
  period := natAt p 0 * 50
  nodeState := (NodeState.ofStatusCode (natAt p 1)).getD .listen
  flags := ⟨bitOf (byteAt p 2) 0, bitOf (byteAt p 2) 1, bitOf (byteAt p 2) 2, bitOf (byteAt p 2) 3,
            bitOf (byteAt p 2) 4, bitOf (byteAt p 2) 5⟩
  stage := (Stage.ofNum (natAt p 3)).getD .dry
  level := wordAt p 4
  origins := ⟨bitOf (byteAt p 6) 0, bitOf (byteAt p 6) 1, bitOf (byteAt p 6) 2⟩
  phase := (Phase.ofCode (natAt p 7)).getD .opened
  gate := GateState.ofCode (natAt p 8)
  demands := ⟨natAt p 12, natAt p 13, natAt p 14, natAt p 15⟩
  shares := ⟨natAt p 16, natAt p 17, natAt p 18, natAt p 19⟩

/-- The payload of a report, with the two pump states and causes the frame carries beside it (R158). -/
def statusPayload (r : Report) (s1 s2 : PumpState) (c1 c2 : PumpCause) : List Byte :=
  [byte (r.period / 50), byte r.nodeState.code, byte r.flags.code, byte r.stage.num] ++ twoBytes r.level ++
  [byte r.origins.code, byte r.phase.code, byte (match r.gate with | some g => g.code | none => 255),
   byte s1.code, byte s2.code, byte (c1.code + 8 * c2.code)] ++ r.demands.bytes ++ r.shares.bytes

/-! ### The COMMAND payload (sections 9.1 and 11.3) -/

/-- The fourteen maintenance commands with their argument characters. -/
inductive MaintCommand where
  | close | reopen | gateStop | gateRelease
  | pumpManual (n duty : Byte) | pumpAuto (n : Byte)
  | lampManual (ch level : Byte) | lampAuto (ch : Byte)
  | calibrate | clear | query (page : Byte) | dump | dumpAndZero | restart
deriving DecidableEq, Repr, Inhabited

/-- The command codes. -/
def MaintCommand.code : MaintCommand → Byte
  | .close => 0x01#8 | .reopen => 0x02#8 | .gateStop => 0x03#8 | .gateRelease => 0x04#8
  | .pumpManual _ _ => 0x10#8 | .pumpAuto _ => 0x11#8 | .lampManual _ _ => 0x18#8 | .lampAuto _ => 0x19#8
  | .calibrate => 0x20#8 | .clear => 0x21#8 | .query _ => 0x30#8 | .dump => 0x31#8 | .dumpAndZero => 0x32#8
  | .restart => 0x3F#8

/-- What a COMMAND payload spells, by checks 1 and 2 of R169: a command, a known code with a wrong length, or no known
code. A payload of length 0 is an unknown command with code 00h (R195). -/
inductive PayloadForm where
  | command (c : MaintCommand)
  | badLength (code : Byte)
  | unknown (code : Byte)
deriving DecidableEq, Repr, Inhabited

/-- A command without arguments, taken where none follow. -/
def noArgs (c : MaintCommand) (args : List Byte) : PayloadForm :=
  if args = [] then .command c else .badLength c.code

/-- The reading of a COMMAND payload. -/
def payloadForm : List Byte → PayloadForm
  | [] => .unknown 0
  | code :: args =>
    match code.toNat, args with
    | 0x01, as => noArgs .close as
    | 0x02, as => noArgs .reopen as
    | 0x03, as => noArgs .gateStop as
    | 0x04, as => noArgs .gateRelease as
    | 0x10, [n, d] => .command (.pumpManual n d)
    | 0x10, _ => .badLength code
    | 0x11, [n] => .command (.pumpAuto n)
    | 0x11, _ => .badLength code
    | 0x18, [ch, l] => .command (.lampManual ch l)
    | 0x18, _ => .badLength code
    | 0x19, [ch] => .command (.lampAuto ch)
    | 0x19, _ => .badLength code
    | 0x20, as => noArgs .calibrate as
    | 0x21, as => noArgs .clear as
    | 0x30, [p] => .command (.query p)
    | 0x30, _ => .badLength code
    | 0x31, as => noArgs .dump as
    | 0x32, as => noArgs .dumpAndZero as
    | 0x3F, as => noArgs .restart as
    | _, _ => .unknown code

/-- The pump an argument names, if it is 1 or 2 (R173). -/
def pumpArg (n : Byte) : Option PumpNo :=
  match n.toNat with
  | 1 => some .one
  | 2 => some .two
  | _ => none

/-- The channel an argument names, if it is 1 to 8 (R174). -/
def channelArg (ch : Byte) : Option (Fin 8) :=
  if h : 1 ≤ ch.toNat ∧ ch.toNat ≤ 8 then some ⟨ch.toNat - 1, by omega⟩ else none

/-- A duty or level argument: above 100 it is taken as 100 (R169). -/
def percentArg (d : Byte) : Nat := min d.toNat 100

/-- The own station number a strap reading gives, less 1: a strap of 0 gives station 15 (R185). -/
def strapStation (strap : Nat) : Fin 15 :=
  if strap = 0 then 14 else ⟨(strap - 1) % 15, Nat.mod_lt _ (by decide)⟩

/-! ### The profile record (section 11.6) -/

/-- Nine bytes of pump settings from byte i, with the options' presence and reaction. -/
def pumpProfileAt (bs : List Byte) (i : Nat) (present latch : Bool) : PumpProfile where
  present := present
  ratedDraw := natAt bs i
  minDuty := natAt bs (i + 1)
  handDuty := natAt bs (i + 2)
  tripLevel := natAt bs (i + 3) * 16
  dryLevel := natAt bs (i + 4) * 16
  dryDelay := natAt bs (i + 5)
  retryTime := natAt bs (i + 6) * 5
  lockoutLimit := natAt bs (i + 7) % 8
  tripDeglitch := if bitOf (byteAt bs (i + 7)) 7 then 500 else 100
  restTime := natAt bs (i + 8)
  latch := latch

/-- The class code of lamp channel i (bits 15 to 13 of its two-byte item). -/
def lampClassCodeAt (bs : List Byte) (i : Nat) : Nat := wordAt bs (71 + 3 * i) / 8192

/-- The lamp settings of channel i. -/
def lampProfileAt (bs : List Byte) (i : Fin 8) : LampProfile where
  cls := (LampClass.ofCode (lampClassCodeAt bs i.val)).getD .unused
  ratedDraw := natAt bs (70 + 3 * i.val)
  mountHeight := wordAt bs (71 + 3 * i.val) % 8192

/-- The settings a record of 96 bytes spells: each stored value times its unit. -/
def profileOf (bs : List Byte) : Profile where
  reportPeriod := natAt bs 0 * 50
  mainsCapacity := natAt bs 1 * 20
  generatorCapacity := natAt bs 2 * 20
  reserve := natAt bs 3
  derate := natAt bs 4
  sagThreshold := natAt bs 5 * 16
  sagHold := natAt bs 6
  localAllowance := natAt bs 7 * 4
  zeroNominal := wordAt bs 8
  fullScale := wordAt bs 10
  span := natAt bs 12 * 50
  driftLimit := natAt bs 13 * 2
  settleTime := natAt bs 14
  t1 := natAt bs 15 * 50
  t2 := natAt bs 16 * 50
  t3 := natAt bs 17 * 50
  t4 := natAt bs 18 * 50
  hysteresis := natAt bs 19 * 50
  setLevel := natAt bs 20 * 50
  narrowBand := wordAt bs 21
  wideBand := wordAt bs 23
  stepSize := natAt bs 25
  calibrationCount := if bitOf (byteAt bs 26) 3 then 64 else 16
  filterLimit := if bitOf (byteAt bs 26) 4 then 64 else 8
  pump1 := pumpProfileAt bs 27 (bitOf (byteAt bs 26) 0) (bitOf (byteAt bs 26) 5)
  pump2 := pumpProfileAt bs 36 (bitOf (byteAt bs 26) 1) (bitOf (byteAt bs 26) 6)
  gate :=
    { present := bitOf (byteAt bs 26) 2
      ratedDraw := natAt bs 45
      travelMax := natAt bs 46
      stallLevel := natAt bs 47 * 16
      stallDeglitch := natAt bs 48 / 8 * 100
      stallRetries := natAt bs 48 % 8 }
  warnTime := natAt bs 49
  clearanceTime := natAt bs 50 * 5
  maxClearTime := natAt bs 51 * 5
  reopenHold := natAt bs 52 * 5
  a1 := natAt bs 53 * 16
  a2 := natAt bs 54 * 16
  a3 := natAt bs 55 * 16
  nightLevel := natAt bs 56
  duskLevel := natAt bs 57
  dayLevel := natAt bs 58
  glareLevel := natAt bs 59
  minLevel := natAt bs 60
  submergenceMargin := natAt bs 61 * 2
  openThreshold := natAt bs 62 * 16
  shortThreshold := natAt bs 63 * 16
  warningPattern := ⟨natAt bs 64, natAt bs 65⟩
  guidancePattern := ⟨natAt bs 66, natAt bs 67⟩
  substitutePattern := ⟨natAt bs 68, natAt bs 69⟩
  lamps := Eight.ofFn (lampProfileAt bs)

/-- Whether a setting lies within lo to hi. -/
def within (x lo hi : Nat) : Bool := decide (lo ≤ x ∧ x ≤ hi)

/-- The ranges of a pump's settings (chapter 4), put only to a present pump (R187 checks 3 and 7). -/
def PumpProfile.rangesOk (p : PumpProfile) : Bool :=
  !p.present ||
  (within p.ratedDraw 1 255 && within p.minDuty 1 100 && within p.handDuty 1 100 && decide (p.minDuty ≤ p.handDuty) &&
   within p.tripLevel 0 4095 && within p.dryLevel 0 4095 && within p.dryDelay 2 30 && within p.retryTime 10 300 &&
   within p.lockoutLimit 1 7 && within p.restTime 5 120)

/-- The ranges of the gate's settings (chapter 6), put only to a present gate. -/
def GateProfile.rangesOk (g : GateProfile) : Bool :=
  !g.present ||
  (within g.ratedDraw 1 255 && within g.travelMax 10 180 && within g.stallLevel 0 4095 &&
   within g.stallDeglitch 100 2000 && within g.stallRetries 0 7)

/-- The ranges of a lamp channel's settings, not put to an UNUSED channel. -/
def LampProfile.rangesOk (l : LampProfile) : Bool :=
  decide (l.cls = .unused) || (within l.ratedDraw 1 255 && within l.mountHeight 0 8000)

/-- A pattern's counts are 0 to 20 (chapter 7). -/
def Pattern.rangesOk (p : Pattern) : Bool := within p.on 0 20 && within p.off 0 20

/-- Check 3 of R187: each setting lies within the range its chapter gives. -/
def Profile.rangesOk (p : Profile) : Bool :=
  within p.reportPeriod 100 1000 && decide (p.reportPeriod % 50 = 0) &&
  within p.mainsCapacity 0 4000 && within p.generatorCapacity 0 4000 && within p.reserve 0 255 && within p.derate 0 75 &&
  within p.sagThreshold 0 4095 && within p.sagHold 2 60 && within p.localAllowance 0 1020 &&
  within p.zeroNominal 400 1000 && within p.fullScale 0 4095 && within p.span 500 8000 && within p.hysteresis 0 1000 &&
  within p.driftLimit 0 400 && within p.settleTime 10 120 && within p.setLevel 0 p.span &&
  within p.narrowBand 0 1000 && within p.wideBand 1 2000 && within p.stepSize 1 25 &&
  p.pump1.rangesOk && p.pump2.rangesOk && p.gate.rangesOk &&
  within p.warnTime 5 60 && within p.clearanceTime 10 300 && within p.maxClearTime 30 600 &&
  within p.reopenHold 30 900 &&
  within p.a1 0 4095 && within p.a2 0 4095 && within p.a3 0 4095 &&
  within p.nightLevel 0 100 && within p.duskLevel 0 100 && within p.dayLevel 0 100 && within p.glareLevel 0 100 &&
  within p.minLevel 0 100 && within p.submergenceMargin 0 500 &&
  within p.openThreshold 0 4095 && within p.shortThreshold 0 4095 &&
  p.warningPattern.rangesOk && p.guidancePattern.rangesOk && p.substitutePattern.rangesOk &&
  p.lamps.toList.all LampProfile.rangesOk

/-- Whether a class is one of the signal classes. -/
def LampClass.isSignal : LampClass → Bool
  | .signalRed | .signalAmber | .signalGreen => true
  | .unused | .carriageway | .guidance => false

/-- Checks 4 to 8 of R187. -/
def Profile.consistent (p : Profile) : Bool :=
  decide (p.t1 < p.t2 ∧ p.t2 < p.t3 ∧ p.t3 < p.t4 ∧ p.t4 ≤ p.span) &&
  decide (p.narrowBand < p.wideBand) &&
  decide (p.zeroNominal + 1000 ≤ p.fullScale) &&
  !(p.lamps.c4.cls.isSignal || p.lamps.c5.cls.isSignal)

/-- The checks of R187 on a record as received. The lamp class codes are checked as listed values beside the ranges. -/
def recordOk (bs : List Byte) : Bool :=
  decide (bs.length = 96) &&
  !(bs.all fun b => decide (b = byteAt bs 0)) &&
  decide ((crc16 (bs.take 94)).toNat = wordAt bs 94) &&
  ([0, 1, 2, 3, 4, 5, 6, 7].all fun i => (LampClass.ofCode (lampClassCodeAt bs i)).isSome) &&
  (profileOf bs).rangesOk && (profileOf bs).consistent

end Sys2Proof.Machine
end

