-- ==== Sys2Proof/Machine/Flags.lean ====
section
/-! DEFINITION. The conditions the rules ask of the state: which node states do what, what the closure controller counts,
when sag is seen, when a calibration may start, which pumps are in the pool or eligible, what the gate's motor does, which
lamps are lit, and the flags a STATUS carries. Each says one condition once; the operations cite it. -/

namespace Sys2Proof.Machine

open Sys2Proof

/-- Seconds as microseconds. -/
def sec (n : Nat) : Time := n * 1000000

/-- Milliseconds as microseconds. -/
def ms (n : Nat) : Time := n * 1000

/-- One character time (R149). -/
def charTime : Time := 160

/-- The fifteen stations, as indices (R22). -/
def stations : List (Fin 15) := [0, 1, 2, 3, 4, 5, 6, 7, 8, 9, 10, 11, 12, 13, 14]

/-- The eight channels, as indices (R131). -/
def channels : List (Fin 8) := [0, 1, 2, 3, 4, 5, 6, 7]

/-! ### Node states -/

/-- The node states in which every block runs by its profile: LISTEN, ACTIVE, ISOLATED and CLASH. -/
def NodeState.running : NodeState → Bool
  | .listen | .active | .isolated | .clash => true
  | .start | .fallback => false

/-- The node states in which the line controller transmits (R165). -/
def NodeState.transmits : NodeState → Bool
  | .listen | .active | .isolated | .fallback => true
  | .start | .clash => false

/-- A START under way: the supply stands and the RESET pin is released (R183). -/
def State.startUnderWay (s : State) : Bool :=
  decide (s.node.state = .start) && s.pins.mainSupply && !s.pins.resetHeld

/-- The own report period: the profile's, and 250 ms in FALLBACK (R157, R193). -/
def State.ownPeriod (s : State) : Nat :=
  match s.node.state with
  | .fallback => 250
  | _ => s.profile.reportPeriod

/-! ### Level monitor -/

/-- Whether the level is valid (R4, R5). -/
def LevelMonitor.valid (m : LevelMonitor) : Bool := decide (m.level ≠ invalidLevel)

/-- The calibration conditions (R15). -/
def LevelMonitor.calConditions (p : Profile) (m : LevelMonitor) : Bool :=
  decide (m.dry.debounced = .dry) &&
  (match m.settle with | some t => decide (sec p.settleTime ≤ t) | none => false) &&
  decide (m.stage = .dry ∨ m.stage = .wet) && !m.sensorFault

/-! ### Bay picture -/

/-- Whether the allotment unit counts a record of this presence (R36). -/
def Presence.counted : Presence → Bool
  | .fresh | .stale => true
  | .absent | .gone => false

/-- The peers of a station. -/
def peers (own : Fin 15) : List (Fin 15) := stations.filter fun i => decide (i ≠ own)

/-- The origins the closure controller counts of one record (section 2.6). -/
def StationRecord.countedOrigins (r : StationRecord) : Origins :=
  match r.presence with
  | .fresh | .stale => r.report.origins
  | .gone => r.sticky.getD Origins.empty
  | .absent => Origins.empty

/-- The peer part of the union (R37). -/
def Picture.peerOrigins (own : Fin 15) (c : Picture) : Origins :=
  (peers own).foldl (fun o i => o.union (c.records.get i).countedOrigins) Origins.empty

/-- Whether a FRESH or STALE peer record carries the sag flag (R47). -/
def Picture.peerSag (own : Fin 15) (c : Picture) : Bool :=
  (peers own).any fun i => (c.records.get i).presence.counted && (c.records.get i).report.flags.sag

/-! ### Sag -/

/-- Whether sag is seen (R47). -/
def State.sagSeen (s : State) : Bool :=
  s.allot.ownSag || (decide (s.node.state = .active) && s.picture.peerSag s.node.station)

/-- Whether sag is held: the sag-hold timer is RUNNING (R47). -/
def Allotment.sagHeld (a : Allotment) : Bool := a.sagHold.isSome

/-! ### Closure -/

/-- The union of origins (R92). -/
def State.unionOrigins (s : State) : Origins :=
  s.closure.own.union (s.picture.peerOrigins s.node.station)

/-- Closure is wanted while the union is not empty (R92). -/
def State.wanted (s : State) : Bool := s.unionOrigins.wanted

/-- The phases in which the reopen hold timer governs the return to traffic (R102). -/
def Phase.holdable : Phase → Bool
  | .stopping | .clearing | .sealing | .sealed => true
  | .opened | .warning | .reopening => false

/-- The gate demand of a phase (section 5.2). -/
def Phase.gateDemand : Phase → Option Dir
  | .sealing | .sealed => some .toClose
  | .reopening => some .toOpen
  | .opened | .warning | .stopping | .clearing => none

/-! ### Pumps -/

/-- Pump record n. -/
def Pumps.get (u : Pumps) : PumpNo → PumpRec
  | .one => u.p1
  | .two => u.p2

/-- A pump record replaced. -/
def Pumps.put (u : Pumps) (n : PumpNo) (r : PumpRec) : Pumps :=
  match n with
  | .one => { u with p1 := r }
  | .two => { u with p2 := r }

/-- A pump that may take the share: not tripped, not locked, switch at AUTO (R73, R74). -/
def PumpRec.eligible (pp : PumpProfile) (r : PumpRec) : Bool :=
  pp.present && decide (r.fault = .none) && decide (r.switch.debounced = .auto)

/-- A pump whose state is HAND (R63 line 4). -/
def PumpRec.inHand (pp : PumpProfile) (r : PumpRec) : Bool :=
  pp.present && decide (r.fault = .none) && decide (r.switch.debounced = .hand)

/-- A pump of the want pool (R67). -/
def PumpRec.inPool (pp : PumpProfile) (r : PumpRec) : Bool :=
  pp.present && decide (r.switch.debounced = .auto) && !r.remote &&
  (match r.fault with
   | .none => true
   | .tripped _ => !r.latched
   | .locked _ => false)

/-- Whether a pump of the node is in the want pool. -/
def State.pooled (s : State) (n : PumpNo) : Bool := (s.pumps.get n).inPool (s.profile.pump n)

/-- Wmax: 100 for each pump of the pool (R67). -/
def State.wantMax (s : State) : Nat :=
  (if s.pooled .one then 100 else 0) + (if s.pooled .two then 100 else 0)

/-- Whether the rest timer has reached the rest time and its expiry has been taken (R78). -/
def PumpRec.rested (r : PumpRec) : Bool := decide (r.rest = .done)

/-- The draw of a pump at a duty, rounded up: ceil(rated draw × duty / 100) (R73, R74). -/
def drawAt (rated duty : Nat) : Nat := ceilDiv (rated * duty) 100

/-! ### Gate -/

/-- The other direction. -/
def Dir.opposite : Dir → Dir
  | .toClose => .toOpen
  | .toOpen => .toClose

/-- The moving state of a direction. -/
def Dir.moving : Dir → GateState
  | .toClose => .closing
  | .toOpen => .opening

/-- The state at rest at the limit of a direction. -/
def Dir.atLimit : Dir → GateState
  | .toClose => .closed
  | .toOpen => .opened

/-- Whether a gate in this state moves. -/
def GateState.moves : GateState → Bool
  | .closing | .opening => true
  | .unknown | .opened | .closed | .held | .jammed => false

/-- Whether the debounced limit of a direction is active. -/
def Gate.atTarget (g : Gate) : Dir → Bool
  | .toClose => g.closedLimit.active
  | .toOpen => g.openLimit.active

/-- Both limits active together (R122). -/
def Gate.bothLimits (g : Gate) : Bool := g.openLimit.active && g.closedLimit.active

/-- Which way the motor drives: with the direction, against it in a back-off, or not at all (R112, R123). -/
def Gate.motor (g : Gate) : Option Dir :=
  match g.state with
  | .closing => some (if g.backoff.isSome then .toOpen else .toClose)
  | .opening => some (if g.backoff.isSome then .toClose else .toOpen)
  | _ => none

/-- The M demand (R112). -/
def Gate.motionDemand (p : GateProfile) (g : Gate) : Nat :=
  if !p.present then 0
  else if g.state.moves && g.keyDrive.isNone then p.ratedDraw
  else if decide (g.state = .held) && decide (g.holdCause = some .share) && g.demand.isSome then p.ratedDraw
  else 0

/-- The gate part of the T demand (R112). -/
def Gate.standingDemand (p : GateProfile) (g : Gate) : Nat :=
  if p.present && g.keyDrive.isSome && g.motor.isSome then p.ratedDraw else 0

/-- Whether the gate inputs are read (R113): in a bay with a gate, and in FALLBACK. -/
def State.gateRead (s : State) : Bool :=
  match s.node.state with
  | .start => false
  | .fallback => true
  | _ => s.profile.gate.present

/-- The gate state as it is reported: none in an inner bay (R112, R129). -/
def State.reportedGate (s : State) : Option GateState :=
  if s.gateRead then some s.gate.state else none

/-! ### Lamps -/

/-- A lamp is in service while its health is OK or SUSPECT (R131). -/
def LampHealth.inService : LampHealth → Bool
  | .ok | .suspect => true
  | .failed | .shorted => false

/-- A channel of the lit carriageway set (R134). -/
def LampRec.inLitSet (lp : LampProfile) (r : LampRec) : Bool :=
  decide (lp.cls = .carriageway) && r.manual.isNone && r.health.inService && !r.submerged

/-- Whether a pattern flashes: both counts above 0 (R139). -/
def Pattern.flashes (q : Pattern) : Bool := decide (0 < q.on ∧ 0 < q.off)

/-- Whether the lamps of a pattern are lit at a counter (R139). -/
def Pattern.lit (q : Pattern) (counter : Nat) : Bool :=
  if q.flashes then decide (counter < q.on)
  else decide (0 < q.on ∨ q.off = 0)

/-- Whether a pattern ever lights its lamps. -/
def Pattern.everLit (q : Pattern) : Bool := decide (0 < q.on ∨ q.off = 0)

/-- The pattern the amber group shows under an aspect (R137, R138). -/
def amberPattern (p : Profile) : Aspect → Option Pattern
  | .amberWarning => some p.warningPattern
  | .redSubstitute => some p.substitutePattern
  | .dark | .green | .red => none

/-- The pattern the guidance group shows in a phase (R136). -/
def guidancePattern (p : Profile) : Phase → Option Pattern
  | .sealed => some p.guidancePattern
  | _ => none

/-- Whether an optional pattern flashes. -/
def flashing : Option Pattern → Bool
  | some q => q.flashes
  | none => false

/-- The signal degraded flag (R138): at least one SIGNAL RED channel, and every one out of service. -/
def degradedOf (lp : Eight LampProfile) (recs : Eight LampRec) : Bool :=
  (channels.any fun i => decide ((lp.get i).cls = .signalRed)) &&
  (channels.all fun i => decide ((lp.get i).cls ≠ .signalRed) || !(recs.get i).health.inService)

/-- The signal aspect (R137, R138). -/
def aspectOf (lp : Eight LampProfile) (phase : Phase) (gate : Option GateState) (degraded : Bool) : Aspect :=
  if !(channels.any fun i => (lp.get i).cls.isSignal) then .dark
  else
    let red := if degraded then Aspect.redSubstitute else Aspect.red
    match phase with
    | .opened =>
      match gate with
      | none | some .opened => .green
      | some _ => red
    | .warning => .amberWarning
    | .stopping | .clearing | .sealing | .sealed | .reopening => red

/-! ### STATUS flags -/

/-- The six flags of the own report (R158). -/
def State.ownFlags (s : State) : StatusFlags where
  joining := decide (s.node.state = .listen)
  fallback := decide (s.node.state = .fallback)
  sag := s.allot.ownSag
  blocked := s.closure.blocked
  degraded := s.lamps.degraded
  sensorFault := s.level.sensorFault

/-- The own report: what the own record is filled with (R35) and what a STATUS carries (R158). -/
def State.ownReport (s : State) : Report where
  period := s.ownPeriod
  nodeState := s.node.state
  flags := s.ownFlags
  stage := s.level.stage
  level := s.level.level
  origins := s.closure.own
  phase := s.closure.phase
  gate := s.reportedGate
  demands := s.demands
  shares := s.allot.shares

/-! ### Line -/

/-- Whether the entry in flight is transmitting: its attempt has begun and has not ended. -/
def Line.transmitting (l : Line) : Bool :=
  match l.flight with
  | some f => decide (l.access = .none) && decide (0 < f.sent)
  | none => false

/-- The character of the entry in flight that started last. -/
def Flight.lastSent (f : Flight) : Byte := byteAt (f.frame.getD []) (f.sent - 1)

/-- One bit time: a tenth of a character (R194, section 8.1). -/
def bitTime : Time := 16

/-- The node's own character that started last: of the frame in transmission, else the one a frame was cut at. -/
def Line.lastOwn (l : Line) : Option Byte := if l.transmitting then l.flight.map Flight.lastSent else l.tail

/-- The node's own character under way: it lasts one character time, and goes on to its end where its frame is cut (R160, R165,
R183). -/
def Line.underWay (l : Line) : Option Byte := if l.sinceOwn < charTime then l.lastOwn else none

/-- The output TXE: high during an attempt, and to the end of the character at which one is cut (section 11.7, R165, R183). -/
def Line.txe (l : Line) : Bool := l.transmitting || l.underWay.isSome

/-- The output TXD, true for the high level (R194): the levels of the node's own character under way, each for one bit time from
its start; and the level of the line at rest. -/
def Line.txd (l : Line) : Bool :=
  match l.underWay with
  | some c => (wireOf c).getLsbD (l.sinceOwn / bitTime)
  | none => true

/-- The line is busy with a character from another station (R149, R154). -/
def Line.busyWithOther (l : Line) : Bool := decide (l.silence < 2 * charTime) && decide (l.lastChar = .other)

/-- A REPLY DONE to RESTART (R165, R195). -/
def Entry.isRestartReply : Entry → Bool
  | .reply p => decide (p = [0x3F#8, 0x00#8])
  | .status => false

end Sys2Proof.Machine
end

