-- ==== Sys2Proof/Machine/Ops.lean ====
section
/-! DEFINITION. The shared operations that belong to no one chapter: the counter bank (R178), the retention domain
(R188), and the passing of time, block by block. The other operations stand with their chapters: LevelOps, PictureOps,
AllotOps, PumpOps, ClosureOps, GateOps, LampOps, LineOps, and Settle, which joins them into one event. -/

namespace Sys2Proof.Machine

open Sys2Proof

/-! ### The counter bank (R178) -/

/-- A counter raised by 1; it saturates at 65535. -/
def bump (n : Nat) : Nat := min (n + 1) 65535

/-- The counters named by an increment. -/
inductive CounterName where
  | statusSent | replySent | goodFrames | crcErrors | formatErrors | collisions | deferrals | giveUps | queueDrops
  | statusGaps | pump1Starts | pump2Starts | pump1Minutes | pump2Minutes | pumpTrips | gateClosures | gateStalls
  | lampFaults | calAccepted | calRejected
deriving DecidableEq, Repr, Inhabited

/-- The named counter raised by 1. -/
def Counters.raise (c : Counters) : CounterName → Counters
  | .statusSent => { c with statusSent := bump c.statusSent }
  | .replySent => { c with replySent := bump c.replySent }
  | .goodFrames => { c with goodFrames := bump c.goodFrames }
  | .crcErrors => { c with crcErrors := bump c.crcErrors }
  | .formatErrors => { c with formatErrors := bump c.formatErrors }
  | .collisions => { c with collisions := bump c.collisions }
  | .deferrals => { c with deferrals := bump c.deferrals }
  | .giveUps => { c with giveUps := bump c.giveUps }
  | .queueDrops => { c with queueDrops := bump c.queueDrops }
  | .statusGaps => { c with statusGaps := bump c.statusGaps }
  | .pump1Starts => { c with pump1Starts := bump c.pump1Starts }
  | .pump2Starts => { c with pump2Starts := bump c.pump2Starts }
  | .pump1Minutes => { c with pump1Minutes := bump c.pump1Minutes }
  | .pump2Minutes => { c with pump2Minutes := bump c.pump2Minutes }
  | .pumpTrips => { c with pumpTrips := bump c.pumpTrips }
  | .gateClosures => { c with gateClosures := bump c.gateClosures }
  | .gateStalls => { c with gateStalls := bump c.gateStalls }
  | .lampFaults => { c with lampFaults := bump c.lampFaults }
  | .calAccepted => { c with calAccepted := bump c.calAccepted }
  | .calRejected => { c with calRejected := bump c.calRejected }

/-- The named counter raised by 1 where a condition holds. -/
def Counters.raiseIf (c : Counters) (n : CounterName) (b : Bool) : Counters := if b then c.raise n else c

/-- An increment handed to the counter bank. -/
def State.count (s : State) (n : CounterName) : State := { s with counters := s.counters.raise n }

/-- The starts counter of a pump (R86). -/
def PumpNo.starts : PumpNo → CounterName
  | .one => .pump1Starts
  | .two => .pump2Starts

/-- The run minutes counter of a pump (R86). -/
def PumpNo.minutes : PumpNo → CounterName
  | .one => .pump1Minutes
  | .two => .pump2Minutes

/-! ### The retention domain (R188) -/

/-- What the domain keeps of a pump: its trip count, and its LOCKED or latched TRIPPED state with the cause. -/
def PumpRec.retained (r : PumpRec) : RetainedPump where
  tripCount := r.tripCount
  fault :=
    match r.fault with
    | .locked c => .locked c
    | .tripped c => if r.latched then .tripped c else .none
    | .none => .none

/-- What the domain keeps of a health: FAILED and SHORTED. -/
def LampHealth.retained : LampHealth → LampHealth
  | .ok | .suspect => .ok
  | .failed => .failed
  | .shorted => .shorted

/-- The healths the domain keeps. -/
def Lamps.retainedHealths (u : Lamps) : Eight LampHealth :=
  Eight.ofFn fun i => (u.recs.get i).health.retained

/-- The items of the domain as their owners hold them. In FALLBACK the zero code, the gate items, the closure phase and
the COMMAND origin stay as the domain holds them (R129, R189). In an inner bay the gate items are UNKNOWN with no direction and
no jam (assumption log 49). -/
def State.retainedItems (s : State) : Retained :=
  match s.node.state with
  | .start => s.retention.items
  | .fallback =>
    { s.retention.items with
      pump1 := s.pumps.p1.retained
      pump2 := s.pumps.p2.retained
      lead := s.pumps.lead
      healths := s.lamps.retainedHealths
      counters := s.counters }
  | _ =>
    { zeroCode := s.level.zeroCode
      pump1 := s.pumps.p1.retained
      pump2 := s.pumps.p2.retained
      lead := s.pumps.lead
      gateState := s.gate.state
      gateDir := s.gate.dir
      gateJam := s.gate.jam
      phaseCode := s.closure.phase.code
      command := s.closure.own.command
      healths := s.lamps.retainedHealths
      counters := s.counters }

/-- The copies an event makes into the domain, item and check together (R188). In START none is made. -/
def State.copyRetained (s : State) : State :=
  match s.node.state with
  | .start => s
  | _ => { s with retention := ⟨s.retainedItems, true⟩ }

/-- The domain loses both supplies: its contents and its check are lost (R188, assumption log 9). -/
def State.loseRetention (s : State) : State :=
  { s with
    retention := ⟨Config.lostRetention s.freeIndex, false⟩
    freeIndex := s.freeIndex + 1 }

/-! ### The passing of time

Each block's timers and runs over an interval `d` in which no event of the block falls. A timer holds at its limit until
its command is taken (assumption log 3). -/

/-- A timer that counts up to a limit and holds there. -/
def upTo (limit t d : Time) : Time := min (t + d) limit

/-- A run that counts while a condition holds and stands at 0 while it does not. -/
def runWhile (cond : Bool) (limit t d : Time) : Time := if cond then upTo limit t d else 0

/-! ### Reads

An input is read every `period` since the node left START (log 26); `clock` is the time since then when an interval `d`
begins, in which the input stands at one level. -/

/-- The time until the next read. -/
def toNextRead (period clock : Time) : Time := period - clock % period

/-- Whether a read falls in the interval, its end included. -/
def readFalls (period clock d : Time) : Bool := decide (toNextRead period clock ≤ d)

/-- How many reads fall in the interval. -/
def readsIn (period clock d : Time) : Nat := (clock + d) / period - clock / period

/-- The time until the k-th read from now. -/
def timeToReads (period : Time) (k : Nat) (clock : Time) : Time :=
  if k = 0 then 0 else k * period - clock % period

/-- An input's value as last read, after an interval in which it stands at `pin`. -/
def lastRead {α : Type} (period clock : Time) (was pin : α) (d : Time) : α :=
  if readFalls period clock d then pin else was

/-- A filter's candidate time, none without a candidate (R45, R90): a read that differs from the filtered level becomes the
candidate, a read equal to it discards the candidate. -/
def filterElapse {α : Type} [DecidableEq α] (period limit clock : Time) (pin filtered : α) (held : Option Time)
    (d : Time) : Option Time :=
  match held with
  | some t => if pin = filtered ∧ readFalls period clock d then none else some (upTo limit t d)
  | none =>
    if pin ≠ filtered ∧ readFalls period clock d then some (upTo limit 0 (d - toNextRead period clock)) else none

/-- The time until a filter's candidate has held for its limit, the input standing off the filtered level. -/
def timeToFilter (period limit clock : Time) (held : Option Time) : Time :=
  match held with
  | some t => limit - t
  | none => toNextRead period clock + limit

/-- A run that counts while the value as last read meets a condition and stands at 0 while it does not (R46, R97, R123):
`was` is whether the value read before the interval meets it, `now` whether the value read in it does. -/
def readRun (period limit clock : Time) (was now : Bool) (t d : Time) : Time :=
  if readFalls period clock d then
    runWhile now limit (runWhile was limit t (toNextRead period clock)) (d - toNextRead period clock)
  else runWhile was limit t d

/-- The time until such a run reaches its limit, every read from now on meeting the condition. -/
def timeToRun (period limit clock : Time) (was : Bool) (t : Time) : Time :=
  if was then limit - t else toNextRead period clock + limit

/-- A candidate and its agreement count after k reads of one value (R65, R113). -/
def agree {α : Type} [DecidableEq α] (k : Nat) (v : α) (candidate : Option α) (count : Nat) : Option α × Nat :=
  if k = 0 then (candidate, count)
  else if candidate = some v then (candidate, min (count + k) 3)
  else (some v, min k 3)

/-- How many more reads of a value change a debounced input: three, less those the candidate already has (R65, R113). -/
def readsLeft {α : Type} [DecidableEq α] (candidate : Option α) (count : Nat) (v : α) : Nat :=
  if candidate = some v then 3 - count else 3

/-! ### Block by block -/

/-- The sample timer (R1). -/
def LevelMonitor.sampleElapse (d : Time) (m : LevelMonitor) : LevelMonitor :=
  { m with sampleTimer := upTo (ms 100) m.sampleTimer d }

/-- The sample timer and the settle timer (R1, R14). -/
def LevelMonitor.elapse (p : Profile) (d : Time) (m : LevelMonitor) : LevelMonitor :=
  { m with
    sampleTimer := upTo (ms 100) m.sampleTimer d
    settle := m.settle.map fun t => upTo (sec p.settleTime) t d }

/-- The heard timer of a FRESH or STALE peer record (R30). -/
def StationRecord.elapse (isOwn : Bool) (d : Time) (r : StationRecord) : StationRecord :=
  if r.presence.counted && !isOwn then { r with heard := upTo (ms (10 * r.report.period)) r.heard d } else r

/-- The heard timers and the line-silence timer (R30, R38). -/
def Picture.elapse (own : Fin 15) (period : Nat) (d : Time) (c : Picture) : Picture :=
  { c with
    records := Fifteen.ofFn fun i => (c.records.get i).elapse (decide (i = own)) d
    silence := upTo (ms (10 * period)) c.silence d }

/-- The GEN filter's candidate (R45). -/
def genElapse (clock : Time) (pin filtered : Supply) (held : Option Time) (d : Time) : Option Time :=
  filterElapse (ms 10) (ms 100) clock pin filtered held d

/-- The GEN filter, the feeder monitor's runs and the sag-hold timer (R45 to R47). -/
def Allotment.elapse (p : Profile) (pins : Pins) (seen : Bool) (clock d : Time) (a : Allotment) : Allotment :=
  { a with
    genHeld := genElapse clock pins.source a.source a.genHeld d
    sense := lastRead (ms 10) clock a.sense pins.feederSense d
    underRun :=
      readRun (ms 10) (ms 200) clock (decide (a.sense < p.sagThreshold)) (decide (pins.feederSense < p.sagThreshold))
        a.underRun d
    recoverRun :=
      readRun (ms 10) (ms 200) clock (decide (p.sagThreshold ≤ a.sense)) (decide (p.sagThreshold ≤ pins.feederSense))
        a.recoverRun d
    sagHold := if seen then a.sagHold else a.sagHold.map fun t => upTo (sec p.sagHold) t d }

/-- The rest timer (R78). -/
def RestTimer.elapse (limit d : Time) : RestTimer → RestTimer
  | .counting t => .counting (upTo limit t d)
  | .done => .done

/-- A pump's switch read every 100 ms (R65). A change of the debounced position waits for its command (log 3). -/
def SwitchInput.elapse (pin : SwitchPos) (clock d : Time) (w : SwitchInput) : SwitchInput :=
  let c := agree (readsIn (ms 100) clock d) pin w.candidate w.count
  ⟨w.debounced, c.1, c.2⟩

/-- The run accumulator (R86) and the switch (R65, R87) alone. -/
def PumpRec.runElapse (pin : SwitchPos) (clock d : Time) (r : PumpRec) : PumpRec :=
  { r with
    runAcc := if 0 < r.duty then r.runAcc + d else r.runAcc
    switch := r.switch.elapse pin clock d }

/-- A pump's rest, retry and supervision times, its run accumulator and, where it is present, its switch (R65, R78 to R82,
R86). Past 60,000 ms with its RUN_MINUTE not sent the accumulator counts on (assumption log 56). -/
def PumpRec.elapse (pp : PumpProfile) (pin : SwitchPos) (current : Nat) (clock d : Time) (r : PumpRec) : PumpRec :=
  { r with
    switch := if pp.present then r.switch.elapse pin clock d else r.switch
    rest := r.rest.elapse (sec pp.restTime) d
    retry := r.retry.map fun t => upTo (sec pp.retryTime) t d
    overRun := runWhile (decide (0 < r.duty ∧ pp.tripLevel < current)) (ms pp.tripDeglitch) r.overRun d
    dryRun := runWhile (decide (r.state = .running ∧ current < pp.dryLevel)) (sec pp.dryDelay) r.dryRun d
    runAcc := if 0 < r.duty then r.runAcc + d else r.runAcc }

/-- The ten minutes of R83. -/
def tenMinutes : Time := sec 600

/-- The dry-stage timer (R83). -/
def DryStageTimer.elapse (d : Time) : DryStageTimer → DryStageTimer
  | .stopped => .stopped
  | .counting t => .counting (upTo tenMinutes t d)
  | .held => .held

/-- The pump controller's times and switches (R65, R67, R78 to R83, R86). -/
def Pumps.elapse (p : Profile) (pins : Pins) (clock d : Time) (u : Pumps) : Pumps :=
  { u with
    p1 := u.p1.elapse p.pump1 pins.switch1 pins.pump1Current clock d
    p2 := u.p2.elapse p.pump2 pins.switch2 pins.pump2Current clock d
    loopTimer := upTo (sec 1) u.loopTimer d
    dryStage := u.dryStage.elapse d }

/-- The run accumulators and the switches of both pumps, as FALLBACK runs and reads them (R87). -/
def Pumps.runElapse (pins : Pins) (clock d : Time) (u : Pumps) : Pumps :=
  { u with p1 := u.p1.runElapse pins.switch1 clock d, p2 := u.p2.runElapse pins.switch2 clock d }

/-- The outside filter's candidate (R90). -/
def outsideElapse (clock : Time) (pin debounced : Bool) (held : Option Time) (d : Time) : Option Time :=
  filterElapse (ms 100) (sec 3) clock pin debounced held d

/-- The outside filter, the presence loop's reads and the phase timers (R90, R95 to R98, R102). -/
def Closure.elapse (p : Profile) (pins : Pins) (clock d : Time) (c : Closure) : Closure :=
  { c with
    outsideHeld := if p.gate.present then outsideElapse clock pins.outsideWater c.outside c.outsideHeld d else none
    warnTimer := if c.phase = .warning then upTo (sec p.warnTime) c.warnTimer d else c.warnTimer
    clearanceTimer :=
      if c.phase = .stopping then upTo (sec p.clearanceTime) c.clearanceTimer d else c.clearanceTimer
    loopRead := if c.phase = .clearing then lastRead (ms 100) c.loopClock c.loopRead pins.loopClear d else c.loopRead
    loopClock := if c.phase = .clearing then c.loopClock + d else c.loopClock
    presenceRun :=
      if c.phase = .clearing then readRun (ms 100) (sec 3) c.loopClock c.loopRead pins.loopClear c.presenceRun d
      else c.presenceRun
    maxClearTimer := if c.phase = .clearing then upTo (sec p.maxClearTime) c.maxClearTimer d else c.maxClearTimer
    reopenHold := c.reopenHold.map fun t => upTo (sec p.reopenHold) t d }

/-- Whether travel counts: the motor drives in the record's direction under the closure demand (R121). -/
def Gate.travelling (g : Gate) : Bool := g.state.moves && g.keyDrive.isNone && g.backoff.isNone

/-- A limit read every 10 ms (R113): the reads that differ from its debounced level, one after another, up to 3. A change of
that level waits for its command (log 3). -/
def LimitInput.elapse (pin : Bool) (clock d : Time) (l : LimitInput) : LimitInput :=
  let k := readsIn (ms 10) clock d
  { l with count := if pin ≠ l.active then min (l.count + k) 3 else if k = 0 then l.count else 0 }

/-- The key switch read every 100 ms (R113). A change of the debounced position waits for its command (log 3). -/
def KeyInput.elapse (pin : KeyPos) (clock d : Time) (w : KeyInput) : KeyInput :=
  let c := agree (readsIn (ms 100) clock d) pin w.candidate w.count
  ⟨w.debounced, c.1, c.2⟩

/-- The gate inputs read (R113). -/
def Gate.readInputs (pins : Pins) (clock d : Time) (g : Gate) : Gate :=
  { g with
    openLimit := g.openLimit.elapse pins.openLimit clock d
    closedLimit := g.closedLimit.elapse pins.closedLimit clock d
    key := g.key.elapse pins.key clock d
    code := lastRead (ms 10) clock g.code pins.gateCurrent d }

/-- The travel, back-off and stall times (R121, R123). -/
def Gate.runTimes (p : GateProfile) (current : Nat) (clock d : Time) (g : Gate) : Gate :=
  { g with
    travel := if g.travelling then upTo (sec p.travelMax) g.travel d else g.travel
    backoff := g.backoff.map fun t => upTo (sec 1) t d
    stallRun :=
      if g.motor.isSome then
        readRun (ms 10) (ms p.stallDeglitch) clock (decide (p.stallLevel < g.code)) (decide (p.stallLevel < current))
          g.stallRun d
      else g.stallRun }

/-- The gate controller's times and inputs, where the profile declares a gate (R111, R113, R121, R123). -/
def Gate.elapse (p : GateProfile) (pins : Pins) (clock d : Time) (g : Gate) : Gate :=
  if p.present then (g.runTimes p pins.gateCurrent clock d).readInputs pins clock d else g

/-- The lamp timer (R132). -/
def Lamps.elapse (d : Time) (u : Lamps) : Lamps := { u with lampTimer := upTo (ms 100) u.lampTimer d }

/-- The silence count and the report timer (R149, R157), and the time since the node's last own character. -/
def Line.elapse (sends : Bool) (period : Nat) (d : Time) (l : Line) : Line :=
  { l with
    silence := l.silence + d
    sinceOwn := l.sinceOwn + d
    reportTimer := if sends then upTo (ms period) l.reportTimer d else l.reportTimer }

/-- The LISTEN timer (R190) and the clock of the reads. -/
def Node.elapse (period : Nat) (d : Time) (n : Node) : Node :=
  { n with
    listenTimer := if n.state = .listen then upTo (ms (4 * period)) n.listenTimer d else n.listenTimer
    readClock := n.readClock + d }

/-- Time passes in FALLBACK: the timers its fixed behaviour runs, and the inputs it reads (R45, R87, R129, R193). The settle
timer, for which no profile gives a settle time, stands (assumption log 46). -/
def State.elapseFallback (d : Time) (s : State) : State :=
  { s with
    node := { s.node with readClock := s.node.readClock + d }
    level := s.level.sampleElapse d
    allot :=
      { s.allot with genHeld := genElapse s.node.readClock s.pins.source s.allot.source s.allot.genHeld d }
    pumps := s.pumps.runElapse s.pins s.node.readClock d
    gate := s.gate.readInputs s.pins s.node.readClock d
    lamps := s.lamps.elapse d
    line := s.line.elapse true 250 d }

/-- Time passes in LISTEN, ACTIVE, ISOLATED and CLASH: every timer runs, the report timer not in CLASH (R165). -/
def State.elapseRunning (d : Time) (s : State) : State :=
  { s with
    node := s.node.elapse s.profile.reportPeriod d
    level := s.level.elapse s.profile d
    picture := s.picture.elapse s.node.station s.profile.reportPeriod d
    allot := s.allot.elapse s.profile s.pins s.sagSeen s.node.readClock d
    pumps := s.pumps.elapse s.profile s.pins s.node.readClock d
    closure := s.closure.elapse s.profile s.pins s.node.readClock d
    gate := s.gate.elapse s.profile.gate s.pins s.node.readClock d
    lamps := s.lamps.elapse d
    line := s.line.elapse s.node.state.transmits s.profile.reportPeriod d }

/-- Time passes in START: no timer runs (R184), and a character under way when START began goes on to its end (R183). -/
def State.elapseStart (d : Time) (s : State) : State :=
  { s with line := { s.line with sinceOwn := s.line.sinceOwn + d } }

/-- An interval passes in which no event is taken. -/
def State.elapse (d : Time) (s : State) : State :=
  match s.node.state with
  | .start => s.elapseStart d
  | .fallback => s.elapseFallback d
  | _ => s.elapseRunning d

/-- What passes in a step without a command: 80 microseconds, half a character time (assumption log 2). -/
def idleTime : Time := 80

/-- A step without a command: the time base runs on. -/
def State.idle (s : State) : State := s.elapse idleTime

end Sys2Proof.Machine
end

