-- ==== Sys2Proof/Machine/LevelOps.lean ====
section
/-! DEFINITION. The operations of the level monitor (chapter 1): the range test and fault checks, the ring, the conversion,
the floats, the stage, and the calibration collector. `sampleLevel` is one whole sample (R1). -/

namespace Sys2Proof.Machine

open Sys2Proof

/-- The range test of R2: below (zero code − 80) or above 4050 fails. -/
def inRange (zero code : Nat) : Bool := decide (zero ≤ code + 80 ∧ code ≤ 4050)

/-- The newest code appended; the oldest of nine leaves (R3). -/
def ringPush (ring : List Nat) (code : Nat) : List Nat :=
  let r := ring ++ [code]
  if 8 < r.length then r.drop 1 else r

/-- The sum of a list of codes. -/
def sumOf (cs : List Nat) : Nat := cs.foldl (fun a c => a + c) 0

/-- The conversion of R5: floor((average − zero) × span / (F − zero)), within 0 to span. -/
def levelOf (p : Profile) (zero avg : Nat) : Nat :=
  if avg ≤ zero then 0 else min p.span ((avg - zero) * p.span / (p.fullScale - zero))

/-- The range test's run, the fault flag, the recovery run and the ring at a sample (R2, R3, R6, R7). -/
def LevelMonitor.takeCode (m : LevelMonitor) (code : Nat) : LevelMonitor :=
  if inRange m.zeroCode code then
    let ring := ringPush m.ring code
    let rec' := if m.sensorFault then m.recoveryRun + 1 else m.recoveryRun
    if m.sensorFault && decide (8 ≤ rec') then
      { m with outRun := 0, ring := ring, sensorFault := false, recoveryRun := 0 }
    else { m with outRun := 0, ring := ring, recoveryRun := rec' }
  else
    let run := min (m.outRun + 1) 3
    if m.sensorFault then { m with outRun := run, ring := [], recoveryRun := 0 }
    else if run = 3 then { m with outRun := run, ring := [], sensorFault := true, recoveryRun := 0 }
    else { m with outRun := run }

/-- The average and its conversion (R4, R5). An out-of-range code while SENSOR FAULT is clear leaves the level as it was
(R2, assumption log 28). `m` has taken the code already. -/
def LevelMonitor.takeLevel (p : Profile) (m : LevelMonitor) (ok : Bool) : LevelMonitor :=
  if m.sensorFault || decide (m.ring.length ≠ 8) then { m with level := invalidLevel }
  else if ok then { m with level := levelOf p m.zeroCode (sumOf m.ring / 8) }
  else m

/-- One read of a float (R8, R9). -/
def FloatInput.read (f : FloatInput) (wet : Bool) : FloatInput :=
  let count := if f.candidate = some wet then min (f.count + 1) 3 else 1
  { debounced := if count = 3 then (if wet then .wet else .dry) else f.debounced
    candidate := some wet
    count := count }

/-- Both floats read. -/
def LevelMonitor.takeFloats (m : LevelMonitor) (dry high : Bool) : LevelMonitor :=
  { m with dry := m.dry.read dry, high := m.high.read high }

/-- Threshold k, 1 to 4 (R10). -/
def Profile.threshold (p : Profile) : Nat → Nat
  | 1 => p.t1
  | 2 => p.t2
  | 3 => p.t3
  | _ => p.t4

/-- The highest k with level ≥ Tk, or 0 (R10). -/
def reached (p : Profile) (level : Nat) : Nat :=
  if p.t4 ≤ level then 4 else if p.t3 ≤ level then 3 else if p.t2 ≤ level then 2 else if p.t1 ≤ level then 1 else 0

/-- The level stage of R10, as a number. -/
def levelStage (p : Profile) (level held : Nat) : Nat :=
  if held < reached p level then reached p level
  else if 1 ≤ held ∧ level + p.hysteresis < p.threshold held then held - 1
  else held

/-- The stage from the floats alone (R12). -/
def floatStage (dry high : FloatState) : Stage :=
  if high = .wet then .flood else if dry = .wet then .rising else .dry

/-- The floor the floats put under the level stage (R11). -/
def floatFloor (dry high : FloatState) : Nat :=
  if high = .wet then 3 else if dry = .wet then 1 else 0

/-- The stage at the end of a sample (R10 to R12). -/
def LevelMonitor.takeStage (p : Profile) (m : LevelMonitor) : LevelMonitor :=
  if m.valid then
    { m with stage := (Stage.ofNum (max (levelStage p m.level m.stage.num)
        (floatFloor m.dry.debounced m.high.debounced))).getD .submerged }
  else { m with stage := floatStage m.dry.debounced m.high.debounced }

/-- The collector with nothing in it. -/
def Collector.empty : Collector := ⟨false, 0, 0⟩

/-- A collection that has just started (R16, R17). -/
def Collector.started : Collector := ⟨true, 0, 0⟩

/-- What a sample does to the collector. -/
inductive CalOutcome where
  | none | accepted | rejected
deriving DecidableEq, Repr, Inhabited

/-- The difference of two codes, without sign. -/
def absDiff (a b : Nat) : Nat := (a - b) + (b - a)

/-- A new zero judged (R19). -/
def LevelMonitor.judgeZero (p : Profile) (m : LevelMonitor) (zero : Nat) : LevelMonitor × CalOutcome :=
  if absDiff zero p.zeroNominal ≤ p.driftLimit then
    ({ m with zeroCode := zero, drift := false, collector := Collector.empty }, .accepted)
  else ({ m with drift := true, collector := Collector.empty }, .rejected)

/-- The collector at the end of a sample (R15 to R19). -/
def LevelMonitor.takeCalibration (p : Profile) (m : LevelMonitor) (code : Nat) (ok : Bool) :
    LevelMonitor × CalOutcome :=
  if m.collector.underWay then
    if m.calConditions p then
      if ok then
        let sum := m.collector.sum + code
        let count := m.collector.count + 1
        if p.calibrationCount ≤ count then m.judgeZero p (sum / p.calibrationCount)
        else ({ m with collector := ⟨true, sum, count⟩ }, .none)
      else (m, .none)
    else ({ m with collector := Collector.empty }, .none)
  else if m.armed && m.calConditions p then
    ({ m with collector := Collector.started, armed := false }, .none)
  else (m, .none)

/-- One whole sample of the level monitor in LISTEN, ACTIVE, ISOLATED and CLASH (R1). -/
def LevelMonitor.sample (p : Profile) (m : LevelMonitor) (r : SampleReads) : LevelMonitor × CalOutcome :=
  let ok := inRange m.zeroCode r.code
  ((((m.takeCode r.code).takeLevel p ok).takeFloats r.dryFloatWet r.highFloatWet).takeStage p).takeCalibration p
    r.code ok

/-- One whole sample in FALLBACK: the floats and the stage from them (R20). -/
def LevelMonitor.sampleFallback (m : LevelMonitor) (r : SampleReads) : LevelMonitor :=
  let f := m.takeFloats r.dryFloatWet r.highFloatWet
  { f with stage := floatStage f.dry.debounced f.high.debounced }

/-- The calibration counters (R19). -/
def CalOutcome.countIn (o : CalOutcome) (c : Counters) : Counters :=
  match o with
  | .none => c
  | .accepted => c.raise .calAccepted
  | .rejected => c.raise .calRejected

/-- The dry-stage timer at a stage handed on (R83). -/
def DryStageTimer.onStage (t : DryStageTimer) (was now : Stage) : DryStageTimer :=
  if now = .dry then
    if was = .dry then
      (match t with
       | .stopped => .counting 0
       | .counting k => .counting k
       | .held => .held)
    else .counting 0
  else .stopped

/-- The pins a sample reads. -/
def Pins.withSample (q : Pins) (r : SampleReads) : Pins :=
  { q with level := r.code, dryFloat := r.dryFloatWet, highFloat := r.highFloatWet }

/-- What a sample changes before its results are handed on (R1, R13, R83). -/
def State.takeSample (r : SampleReads) (s : State) : State :=
  match s.node.state with
  | .start => s
  | .fallback =>
    { s with
      pins := s.pins.withSample r
      level := { s.level.sampleFallback r with sampleTimer := 0 } }
  | _ =>
    let out := s.level.sample s.profile r
    { s with
      pins := s.pins.withSample r
      level := { out.1 with sampleTimer := 0 }
      pumps := { s.pumps with dryStage := s.pumps.dryStage.onStage s.level.stage out.1.stage }
      counters := out.2.countIn s.counters }

/-- CALIBRATE taken (R17): a collection under way continues; otherwise one starts. The command is refused before this where
neither holds. -/
def LevelMonitor.calibrate (m : LevelMonitor) : LevelMonitor :=
  if m.collector.underWay then m
  else { m with collector := Collector.started, armed := false }

/-- Whether CALIBRATE is taken (R17). -/
def LevelMonitor.takesCalibrate (p : Profile) (m : LevelMonitor) : Bool :=
  m.collector.underWay || m.calConditions p

/-- The pump starts and stops of an event (R14 to R16): a start stops the settle timer, arms the automatic collection and
empties the collector; a stop that leaves every pump at 0 starts the settle timer. -/
def LevelMonitor.onPumps (m : LevelMonitor) (started stopped allAtRest : Bool) : LevelMonitor :=
  let m := if started then { m with settle := none, armed := true, collector := Collector.empty } else m
  if stopped && allAtRest then { m with settle := some 0 } else m

end Sys2Proof.Machine
end

