-- ==== Sys2Proof/Machine/PictureOps.lean ====
section
/-! DEFINITION. The operations of the bay picture (chapter 2): a STATUS put to the sequence tests and filled into its
record, ageing, the release of sticky origins, and the own record. -/

namespace Sys2Proof.Machine

open Sys2Proof

/-- A record filled from a STATUS (R23). -/
def StationRecord.fill (seq : Nat) (r : Report) : StationRecord := ⟨.fresh, seq, 0, r, none⟩

/-- The sequence after another: 1 follows both 0 and 255 (R28, R164). -/
def nextSeq (n : Nat) : Nat := if n = 0 ∨ n = 255 then 1 else n + 1

/-- What the sequence tests make of a frame (R26 to R28). -/
inductive SeqTest where
  | reset | duplicate | accepted (gap : Bool)
deriving DecidableEq, Repr, Inhabited

/-- The sequence tests, against the record of the frame's source (R26 to R28). -/
def StationRecord.seqTest (r : StationRecord) (seq : Nat) : SeqTest :=
  if seq = 0 then .reset
  else if seq = r.lastSeq then .duplicate
  else .accepted (r.presence.counted && decide (seq ≠ nextSeq r.lastSeq))

/-- The record after a frame (R23, R26 to R28). -/
def StationRecord.takeStatus (r : StationRecord) (seq : Nat) (rep : Report) : StationRecord :=
  match r.seqTest seq with
  | .duplicate => r
  | .reset | .accepted _ => StationRecord.fill seq rep

/-- Whether a frame counts a status gap (R28). -/
def StationRecord.gapAt (r : StationRecord) (seq : Nat) : Bool :=
  match r.seqTest seq with
  | .accepted gap => gap
  | .reset | .duplicate => false

/-- One record of the picture replaced. -/
def Picture.put (c : Picture) (i : Fin 15) (r : StationRecord) : Picture := { c with records := c.records.set i r }

/-- A FRESH record becomes STALE (R30). -/
def StationRecord.toStale (r : StationRecord) : StationRecord := { r with presence := .stale }

/-- A STALE record becomes GONE; its origins become its sticky origins (R31). -/
def StationRecord.toGone (r : StationRecord) : StationRecord :=
  { r with presence := .gone, sticky := some r.report.origins }

/-- The sticky origins of a GONE record emptied (R34). -/
def StationRecord.release (r : StationRecord) : StationRecord :=
  if r.presence = .gone then { r with sticky := some Origins.empty } else r

/-- The sticky origins of every GONE record emptied in one step (R34). -/
def Picture.release (c : Picture) : Picture :=
  { c with records := Fifteen.ofFn fun i => (c.records.get i).release }

/-- The line-silence timer restarted by a valid frame (R38); it stays stopped in FALLBACK and START (R39). -/
def State.hearFrame (s : State) : State :=
  if s.node.state.running then { s with picture := { s.picture with silence := 0, expired := false } } else s

/-- The own record filled from the node's own state (R35). -/
def State.fillOwnRecord (s : State) : State :=
  { s with picture := s.picture.put s.node.station (StationRecord.fill 0 s.ownReport) }

/-- The own shares written into the own record at the end of a pass (R35, R42). -/
def State.shareOwnRecord (s : State) : State :=
  let r := s.picture.records.get s.node.station
  { s with picture := s.picture.put s.node.station { r with report := { r.report with shares := s.allot.shares } } }

end Sys2Proof.Machine
end

