-- ==== Sys2Proof/Machine/AllotOps.lean ====
section
/-! DEFINITION. The allotment pass (chapter 3): the usable capacity, the four classes served in order, and the sag-hold
timer. `serveAll` is the arithmetic alone; `State.allotmentPass` is one whole pass. -/

namespace Sys2Proof.Machine

open Sys2Proof

/-- What one counted entry supplies to a pass: its demands and its stage (R51). -/
structure Claim where
  demands : Demands
  stage : Stage
deriving DecidableEq, Repr, Inhabited

/-- A share, and the remainder passed to the next class. -/
structure Served where
  share : Nat
  rem : Nat
deriving DecidableEq, Repr, Inhabited

/-- The sum of one class over the counted entries. -/
def sumBy (f : Demands → Nat) (cs : List Claim) : Nat := cs.foldl (fun a c => a + f c.demands) 0

/-- One class served from a remainder, given the own demand and the whole sum (R52, R53, R55): fully, or in proportion
with nothing left. -/
def serve (rem own total : Nat) : Served :=
  if total ≤ rem then ⟨own, rem - total⟩ else ⟨rem * own / total, 0⟩

/-- The sum of P over the tier of a stage (R54). -/
def tierSum (k : Stage) (cs : List Claim) : Nat := sumBy Demands.p (cs.filter fun c => decide (c.stage = k))

/-- One tier of PUMPING (R54): the own share, 0 unless the own entry is in the tier, added to what the tiers above gave. -/
def serveTier (own : Claim) (cs : List Claim) (acc : Served) (k : Stage) : Served :=
  let v := serve acc.rem (if own.stage = k then own.demands.p else 0) (tierSum k cs)
  ⟨acc.share + v.share, v.rem⟩

/-- The tiers in the order they are taken (R54). -/
def tiers : List Stage := [.submerged, .flood, .rising, .wet, .dry]

/-- PUMPING served in its five tiers (R54). -/
def servePumping (rem : Nat) (own : Claim) (cs : List Claim) : Served :=
  tiers.foldl (serveTier own cs) ⟨0, rem⟩

/-- The result of a pass. -/
structure PassResult where
  shares : Demands
  overrun : Bool
deriving DecidableEq, Repr, Inhabited

/-- The four classes served in the order STANDING, MOTION, PUMPING, LIGHTING (R42, R52 to R55). The own entry is the head
of the counted entries. -/
def serveAll (usable : Nat) (own : Claim) (others : List Claim) : PassResult :=
  let cs := own :: others
  let t := serve usable own.demands.t (sumBy Demands.t cs)
  let m := serve t.rem own.demands.m (sumBy Demands.m cs)
  let p := servePumping m.rem own cs
  let l := serve p.rem own.demands.l (sumBy Demands.l cs)
  ⟨⟨t.share, m.share, p.share, l.share⟩, decide (usable < sumBy Demands.t cs)⟩

/-- The capacity of the supply now feeding the underpass (R45). -/
def State.capacity (s : State) : Nat :=
  match s.allot.source with
  | .mains => s.profile.mainsCapacity
  | .generator => s.profile.generatorCapacity

/-- The derate applied (R49). -/
def State.derateApplied (s : State) : Nat := if s.allot.sagHeld then s.profile.derate else 0

/-- The usable capacity of a pass (R49, R50). -/
def State.usableCapacity (s : State) : Nat :=
  match s.node.state with
  | .active => s.capacity * (100 - s.derateApplied) / 100 - s.profile.reserve
  | _ => s.profile.localAllowance

/-- The own entry of a pass: the own demands and stage. -/
def State.ownClaim (s : State) : Claim := ⟨s.demands, s.level.stage⟩

/-- The peer entries of a pass (R36): every FRESH or STALE peer record in ACTIVE, none elsewhere. -/
def State.peerClaims (s : State) : List Claim :=
  match s.node.state with
  | .active =>
    ((peers s.node.station).filter fun i => (s.picture.records.get i).presence.counted).map fun i =>
      ⟨(s.picture.records.get i).report.demands, (s.picture.records.get i).report.stage⟩
  | _ => []

/-- The result of a pass on the state as it stands (R42). -/
def State.passResult (s : State) : PassResult := serveAll s.usableCapacity s.ownClaim s.peerClaims

/-- One allotment pass (R42): the own record filled, the classes served, the result stored and written into the own
record. -/
def State.allotmentPass (s : State) : State :=
  let f := s.fillOwnRecord
  let out := f.passResult
  State.shareOwnRecord
    { f with allot := { f.allot with usable := f.usableCapacity, shares := out.shares, overrun := out.overrun } }

/-- What of a record gives rise to a pass when it changes (R29, R43): its presence, and while it is counted its demands,
stage and sag flag. -/
def StationRecord.passKey (r : StationRecord) : Presence × Demands × Stage × Bool :=
  if r.presence.counted then (r.presence, r.report.demands, r.report.stage, r.report.flags.sag)
  else (r.presence, Demands.zero, .dry, false)

/-- Whether an event that began in state `b` gives rise to a pass (R43). A counted peer's sag flag that changes gives rise to
one whether or not it moves the sag-hold timer (R29, R43; assumption log 50). -/
def State.passDue (b s : State) : Bool :=
  decide (b.node.state ≠ s.node.state) || decide (b.demands ≠ s.demands) ||
  decide (b.level.stage ≠ s.level.stage) || decide (b.allot.source ≠ s.allot.source) ||
  decide (b.allot.sagHeld ≠ s.allot.sagHeld) ||
  ((peers s.node.station).any fun i =>
    decide ((b.picture.records.get i).passKey ≠ (s.picture.records.get i).passKey))

/-- One pass, where the event gives rise to one (R43). -/
def State.runPass (b s : State) : State := if State.passDue b s then s.allotmentPass else s

/-- The sag-hold timer (R47): kept at 0 while sag is seen; it starts from STOPPED when sag is first seen. -/
def State.updateSag (s : State) : State :=
  if s.sagSeen then { s with allot := { s.allot with sagHold := some 0 } } else s

end Sys2Proof.Machine
end

