-- ==== Sys2Proof/Machine/PumpOps.lean ====
section
/-! DEFINITION. The operations of the pump controller (chapter 4): the want loop, the lead role, the split, the demands, the
ceilings, the derivation of a pump's state, trips, and the fixed float control of FALLBACK. -/

namespace Sys2Proof.Machine

open Sys2Proof

/-! ### The want loop (R67 to R70) -/

/-- The error of a loop step (R68). -/
def State.loopError (s : State) : Int :=
  if s.level.valid then (s.level.level : Int) - s.profile.setLevel
  else if 2 ≤ s.level.stage.num then (s.profile.narrowBand : Int) + 1
  else -((s.profile.narrowBand : Int) + 1)

/-- The SETTLED indication a loop step decides (R68). -/
def settledAt (p : Profile) (was : Bool) (e : Int) : Bool :=
  decide (e.natAbs ≤ p.narrowBand) || (was && decide (e.natAbs ≤ p.wideBand))

/-- The step size (R69): doubled at FLOOD and SUBMERGED. -/
def stepSizeAt (p : Profile) (st : Stage) : Nat := if 3 ≤ st.num then 2 * p.stepSize else p.stepSize

/-- A step of W with its start and stop corrections (R69). -/
def stepWant (w wmax size leadMin : Nat) (e : Int) : Nat :=
  let moved := if 0 < e then min (w + size) wmax else if e < 0 then min (w - size) wmax else min w wmax
  if 0 < moved ∧ moved < leadMin ∧ 0 < e ∧ wmax ≠ 0 then leadMin
  else if moved < leadMin ∧ e < 0 then 0
  else moved

/-- What a loop step does to W and SETTLED (R68 to R70). -/
def State.stepLoop (s : State) : State :=
  if s.level.dry.debounced = .wet then
    let e := s.loopError
    if settledAt s.profile s.pumps.settled e then { s with pumps := { s.pumps with settled := true } }
    else
      { s with
        pumps := { s.pumps with
          settled := false
          want := stepWant s.pumps.want s.wantMax (stepSizeAt s.profile s.level.stage)
            (s.profile.pump s.pumps.lead).minDuty e } }
  else { s with pumps := { s.pumps with want := 0, settled := false } }

/-! ### Wants (R67, R70 to R72) -/

/-- W as it stands after an event: 0 without a WET dry float (R70), and never above Wmax (R67). -/
def State.cutWant (s : State) : State :=
  if s.level.dry.debounced = .wet then { s with pumps := { s.pumps with want := min s.pumps.want s.wantMax } }
  else { s with pumps := { s.pumps with want := 0, settled := false } }

/-- Whether pump n may take the share. -/
def State.isEligible (s : State) (n : PumpNo) : Bool := (s.pumps.get n).eligible (s.profile.pump n)

/-- A lead swap (R72): W has gone from above 0 to 0, and both pumps are in the pool and not tripped. -/
def State.leadSwaps (b s : State) : Bool :=
  decide (0 < b.pumps.want) && decide (s.pumps.want = 0) &&
  s.pooled .one && s.pooled .two && s.isEligible .one && s.isEligible .two

/-- A lead yield (R72): the lead is OFF, HAND, TRIPPED or LOCKED, or ABSENT, and the other pump is none of these. -/
def State.leadYields (s : State) : Bool :=
  !s.isEligible s.pumps.lead && s.isEligible s.pumps.lead.other

/-- The lead role after an event (R72). -/
def State.moveLead (b s : State) : State :=
  if State.leadSwaps b s || s.leadYields then { s with pumps := { s.pumps with lead := s.pumps.lead.other } } else s

/-- A want above 0 raised to the minimum duty (R71, R85). -/
def raiseTo (minDuty want : Nat) : Nat := if 0 < want then max want minDuty else 0

/-- The part of W the split gives pump n (R71). -/
def State.splitOf (s : State) (n : PumpNo) : Nat :=
  if s.pooled n then
    if s.pooled n.other then
      if n = s.pumps.lead then min s.pumps.want 100 else s.pumps.want - 100
    else s.pumps.want
  else 0

/-- The want of pump n (R71, R85). In REMOTE MANUAL a TRIPPED pump has no want, one that is to retry included (assumption
log 51). -/
def State.wantOf (s : State) (n : PumpNo) : Nat :=
  let r := s.pumps.get n
  let pp := s.profile.pump n
  if r.remote then
    if r.eligible pp && decide (s.level.dry.debounced = .wet) then raiseTo pp.minDuty r.manualDuty else 0
  else raiseTo pp.minDuty (s.splitOf n)

/-- The split (R71). -/
def State.split (s : State) : State :=
  { s with
    pumps := { s.pumps with
      p1 := { s.pumps.p1 with want := s.wantOf .one }
      p2 := { s.pumps.p2 with want := s.wantOf .two } } }

/-- W, the lead role and the wants after an event (R67, R70 to R72). -/
def State.formWants (b s : State) : State := (State.moveLead b s.cutWant).split

/-! ### Demands (R73) -/

/-- A pump's part of the P demand. -/
def PumpRec.pumpingPart (pp : PumpProfile) (r : PumpRec) : Nat :=
  if r.eligible pp then drawAt pp.ratedDraw r.want else 0

/-- A pump's part of the T demand (R66). -/
def PumpRec.standingPart (pp : PumpProfile) (r : PumpRec) : Nat :=
  if r.inHand pp then drawAt pp.ratedDraw pp.handDuty else 0

/-- The P demand, saturated at 255 LU. -/
def State.pumpingDemand (s : State) : Nat :=
  min (s.pumps.p1.pumpingPart s.profile.pump1 + s.pumps.p2.pumpingPart s.profile.pump2) 255

/-- The pump part of the T demand. -/
def State.pumpStanding (s : State) : Nat :=
  s.pumps.p1.standingPart s.profile.pump1 + s.pumps.p2.standingPart s.profile.pump2

/-! ### Ceilings and the derivation (R63, R74) -/

/-- The portion of the share pump n takes (R74). -/
def State.portionOf (s : State) (n : PumpNo) : Nat :=
  let share := s.allot.shares.p
  let leadPortion :=
    if s.isEligible s.pumps.lead then
      min (drawAt (s.profile.pump s.pumps.lead).ratedDraw (s.pumps.get s.pumps.lead).want) share
    else 0
  if s.isEligible n then (if n = s.pumps.lead then leadPortion else share - leadPortion) else 0

/-- The ceiling a portion gives (R74). -/
def ceilingOf (rated portion : Nat) : Nat := min 100 (portion * 100 / rated)

/-- The ceilings formed from the share that stands (R74). -/
def State.formCeilings (s : State) : State :=
  { s with
    pumps := { s.pumps with
      p1 := { s.pumps.p1 with ceiling := ceilingOf s.profile.pump1.ratedDraw (s.portionOf .one) }
      p2 := { s.pumps.p2 with ceiling := ceilingOf s.profile.pump2.ratedDraw (s.portionOf .two) } } }

/-- The cause a trip leaves. -/
def TripCause.asCause : TripCause → PumpCause
  | .overcurrent => .overcurrent
  | .dryrun => .dryrun

/-- What the table of R63 derives: state, cause and running duty. -/
structure Derived where
  state : PumpState
  cause : PumpCause
  duty : Nat
deriving DecidableEq, Repr, Inhabited

/-- The table of R63, and ABSENT (R62). -/
def PumpRec.derive (pp : PumpProfile) (sagHeld : Bool) (r : PumpRec) : Derived :=
  if !pp.present then ⟨.absent, .none, 0⟩
  else
    match r.fault with
    | .locked c => ⟨.locked, c.asCause, 0⟩
    | .tripped c => ⟨.tripped, c.asCause, 0⟩
    | .none =>
      match r.switch.debounced with
      | .off | .unsettled => ⟨.off, .none, 0⟩
      | .hand => ⟨.hand, .none, if r.rested then pp.handDuty else 0⟩
      | .auto =>
        if r.want = 0 then ⟨.idle, .none, 0⟩
        else if 0 < r.duty ∧ pp.minDuty ≤ r.ceiling then ⟨.running, .none, min r.want r.ceiling⟩
        else if r.ceiling < pp.minDuty then ⟨.suspended, .share, 0⟩
        else if sagHeld then ⟨.suspended, .sag, 0⟩
        else if !r.rested then ⟨.resting, .none, 0⟩
        else ⟨.running, .none, min r.want r.ceiling⟩

/-- A pump's record after its state is derived, with what a start and a stop do to it (R63, R78 to R80). -/
def PumpRec.apply (d : Derived) (r : PumpRec) : PumpRec :=
  let stops := decide (0 < r.duty ∧ d.duty = 0)
  { r with
    state := d.state
    cause := d.cause
    duty := d.duty
    rest := if stops then .counting 0 else r.rest
    overRun := if d.duty = 0 then 0 else r.overRun
    dryRun := if r.state = .running ∧ d.state = .running then r.dryRun else 0 }

/-- A pump start (R64). -/
def pumpStarts (was now : PumpRec) : Bool := decide (was.duty = 0 ∧ 0 < now.duty)

/-- A pump stop (R64). -/
def pumpStops (was now : PumpRec) : Bool := decide (0 < was.duty ∧ now.duty = 0)

/-- Two pump records put in place, with the starts counted and the starts and stops handed to the level monitor
(R14, R64, R86). -/
def State.putPumps (r1 r2 : PumpRec) (s : State) : State :=
  let start1 := pumpStarts s.pumps.p1 r1
  let start2 := pumpStarts s.pumps.p2 r2
  let stops := pumpStops s.pumps.p1 r1 || pumpStops s.pumps.p2 r2
  { s with
    pumps := { s.pumps with p1 := r1, p2 := r2 }
    level := s.level.onPumps (start1 || start2) stops (decide (r1.duty = 0 ∧ r2.duty = 0))
    counters := (s.counters.raiseIf .pump1Starts start1).raiseIf .pump2Starts start2 }

/-- Both pumps' states derived against the ceilings that stand (R63). -/
def State.derivePumps (s : State) : State :=
  s.putPumps (s.pumps.p1.apply (s.pumps.p1.derive s.profile.pump1 s.allot.sagHeld))
    (s.pumps.p2.apply (s.pumps.p2.derive s.profile.pump2 s.allot.sagHeld))

/-- The ceilings applied (R74, R75). -/
def State.applyCeilings (s : State) : State := s.formCeilings.derivePumps

/-- A sag start or a sag-hold end taken by the pump controller before the pass of its event, against the ceilings that
stand (R58, R77). -/
def State.takeSagChange (b s : State) : State :=
  if b.allot.sagHeld = s.allot.sagHeld then s else s.derivePumps

/-! ### Trips and releases (R81 to R85) -/

/-- A trip's effect on the record (R81, R82). The stop follows when the state is derived. -/
def PumpRec.trip (pp : PumpProfile) (c : TripCause) (r : PumpRec) : PumpRec :=
  let n := min (r.tripCount + 1) 7
  if n = pp.lockoutLimit then { r with tripCount := n, fault := .locked c, retry := none, latched := false }
  else if pp.latch then { r with tripCount := n, fault := .tripped c, retry := none, latched := true }
  else { r with tripCount := n, fault := .tripped c, retry := some 0, latched := false }

/-- A pump's return from TRIPPED (R82). -/
def PumpRec.untrip (r : PumpRec) : PumpRec := { r with fault := .none, retry := none, latched := false }

/-- CLEAR at one pump (R84). -/
def PumpRec.clear (r : PumpRec) : PumpRec :=
  { r with fault := .none, retry := none, latched := false, tripCount := 0 }

/-- CLEAR at the pump controller (R84): each present pump; in FALLBACK both (R87). -/
def State.clearPumps (s : State) : State :=
  let fb := decide (s.node.state = .fallback)
  { s with
    pumps := { s.pumps with
      p1 := if s.profile.pump1.present || fb then s.pumps.p1.clear else s.pumps.p1
      p2 := if s.profile.pump2.present || fb then s.pumps.p2.clear else s.pumps.p2 } }

/-- The current pin of pump n set. -/
def Pins.withPumpCurrent (q : Pins) (n : PumpNo) (code : Nat) : Pins :=
  match n with
  | .one => { q with pump1Current := code }
  | .two => { q with pump2Current := code }

/-- The switch pins of pump n set. -/
def Pins.withSwitch (q : Pins) (n : PumpNo) (pos : SwitchPos) : Pins :=
  match n with
  | .one => { q with switch1 := pos }
  | .two => { q with switch2 := pos }

/-- A pump record changed. -/
def State.updatePump (n : PumpNo) (f : PumpRec → PumpRec) (s : State) : State :=
  { s with pumps := s.pumps.put n (f (s.pumps.get n)) }

/-! ### FALLBACK (R87) -/

/-- Whether pump 1, with its switch at AUTO, runs after an event that began in state `b`: a dry float that becomes DRY
stops it (assumption log 15); its switch reaching AUTO runs it while the high float is WET; the high float becoming WET
starts it; otherwise it is left as it stands. -/
def State.fallbackRuns (b s : State) : Bool :=
  if b.level.dry.debounced ≠ .dry ∧ s.level.dry.debounced = .dry then false
  else if b.pumps.p1.switch.debounced ≠ .auto then decide (s.level.high.debounced = .wet)
  else if b.level.high.debounced ≠ .wet ∧ s.level.high.debounced = .wet then true
  else decide (s.pumps.p1.state = .running)

/-- A pump's state in FALLBACK, given whether it runs at AUTO (R87). A switch still UNSETTLED is taken as OFF (assumption
log 52). -/
def PumpRec.deriveFallback (r : PumpRec) (runs : Bool) : Derived :=
  match r.fault with
  | .locked c => ⟨.locked, c.asCause, 0⟩
  | .tripped c => ⟨.tripped, c.asCause, 0⟩
  | .none =>
    match r.switch.debounced with
    | .off | .unsettled => ⟨.off, .none, 0⟩
    | .hand => ⟨.hand, .none, 100⟩
    | .auto => if runs then ⟨.running, .none, 100⟩ else ⟨.idle, .none, 0⟩

/-- The float control of FALLBACK (R87). -/
def State.fallbackPumps (b s : State) : State :=
  s.putPumps (s.pumps.p1.apply (s.pumps.p1.deriveFallback (State.fallbackRuns b s)))
    (s.pumps.p2.apply (s.pumps.p2.deriveFallback false))

end Sys2Proof.Machine
end

