-- ==== Sys2Proof/Machine/GateOps.lean ====
section
/-! DEFINITION. The operations of the gate controller (chapter 6): the resolution of the motion by the authority table of
R114, the share, limits, stalls, the key switch, the commands, and the derivation of FALLBACK. -/

namespace Sys2Proof.Machine

open Sys2Proof

/-- The motor stopped in a back-off or a motion: back-off abandoned, stall run at 0 (R118, R121, R122, R125). -/
def Gate.stop (g : Gate) : Gate := { g with backoff := none, stallRun := 0 }

/-- The gate at rest between its limits with a cause. -/
def Gate.hold (c : HoldCause) (g : Gate) : Gate := { g.stop with state := .held, holdCause := some c }

/-- The gate at rest at a limit (R117, R120): the motion is complete. -/
def Gate.complete (d : Dir) (g : Gate) : Gate :=
  { g.stop with state := d.atLimit, holdCause := none, travel := 0 }

/-- A standing jam with the key at AUTO (R114 line 2): the gate is JAMMED, its direction kept. -/
def Gate.jammed (g : Gate) : Gate := { g.stop with state := .jammed, holdCause := none }

/-- Both limits active together form a jam with cause LIMITS (R122). -/
def Gate.formLimitsJam (g : Gate) : Gate := if g.bothLimits then { g with jam := some .limits } else g

/-- The gate under the key (R115, R122): at rest at its target limit; at rest HELD (SHARE) after a stall, or once the
opposite limit has been met (assumption log 16); otherwise driven. A gate stalled under the key takes the state of its target
limit where that becomes active, and stays HELD at the other (assumption log 48). -/
def Gate.underKey (d : Dir) (g : Gate) : Gate :=
  if g.atTarget d then { g with state := d.atLimit, holdCause := none, backoff := none }
  else if g.keyStalled || g.keyBarred then { g with state := .held, holdCause := some .share, backoff := none }
  else { g with state := d.moving, holdCause := none, backoff := none }

/-- The command hold (R114 line 3, R125): a moving or HELD gate is HELD (COMMAND), also while a limit is still active (assumption
log 58); any other stays. -/
def Gate.underHold (g : Gate) : Gate :=
  match g.state with
  | .closing | .opening | .held | .jammed => g.hold .command
  | .unknown | .opened | .closed => g

/-- No closure demand (R114 line 5, R119): a moving or HELD gate is HELD (SHARE); any other stays. -/
def Gate.atRest (g : Gate) : Gate :=
  match g.state with
  | .closing | .opening | .held | .jammed => g.hold .share
  | .unknown | .opened | .closed => g

/-- Whether a demand makes a new motion (R117): the gate is UNKNOWN, OPEN or CLOSED, or its direction differs. -/
def Gate.newMotion (d : Dir) (g : Gate) : Bool :=
  decide (g.state = .unknown ∨ g.state = .opened ∨ g.state = .closed) || decide (g.dir ≠ some d)

/-- A closure demand before the share is judged (R114 line 4, R117, R119): complete at the target limit; a reversal keeps
the motor on in the new direction; otherwise HELD (SHARE) until the share is judged, or moving on. -/
def Gate.underDemand (p : GateProfile) (d : Dir) (g : Gate) : Gate :=
  if g.atTarget d then g.complete d
  else
    let state := if g.state.moves then d.moving else .held
    let cause := if g.state.moves then none else some HoldCause.share
    if g.newMotion d then
      { g with dir := some d, travel := 0, retries := p.stallRetries, backoff := none, stallRun := 0,
               state := state, holdCause := cause }
    else { g with state := state, holdCause := cause }

/-- The resolution of R114, before the share is judged. -/
def Gate.resolve (p : GateProfile) (g : Gate) : Gate :=
  let g := g.formLimitsJam
  match g.keyDrive with
  | some d => g.underKey d
  | none =>
    if g.jam.isSome then g.jammed
    else if g.commandHold then g.underHold
    else
      match g.demand with
      | some d => g.underDemand p d
      | none => g.atRest

/-- Whether line 4 of R114 decides and the gate is to move. -/
def Gate.wantsShare (g : Gate) : Bool :=
  g.keyDrive.isNone && g.jam.isNone && !g.commandHold && g.demand.isSome &&
  (g.state.moves || decide (g.state = .held))

/-- The MOTION share judged (R117 step 3, R118): at least the rated draw drives the gate in its direction, less holds it. -/
def Gate.applyShare (p : GateProfile) (share : Nat) (g : Gate) : Gate :=
  if g.wantsShare then
    if p.ratedDraw ≤ share then
      if g.state.moves then g
      else
        match g.dir with
        | some d => { g with state := d.moving, holdCause := none }
        | none => g
    else if g.state.moves then g.hold .share
    else g
  else g

/-- The stall run returns to 0 at each start of the motor and each change of its direction (R123), and at each stop: by R118, R120,
R121 and R124, and by assumption log 59 at the stops no rule clears it for. -/
def Gate.settleStall (was now : Gate) : Gate :=
  if was.motor = now.motor then now else { now with stallRun := 0 }

/-- Whether one gate closure is counted (R120): CLOSED from CLOSING or HELD without key drive. -/
def gateClosureCounted (was now : Gate) : Bool :=
  decide (was.state = .closing ∨ was.state = .held) && decide (now.state = .closed) &&
  was.keyDrive.isNone && now.keyDrive.isNone

/-- The state taken from the limits, else HELD with the direction kept and the cause the command hold gives (R116, R127). -/
def Gate.fromLimits (g : Gate) : Gate :=
  if g.closedLimit.active then { g.stop with state := .closed, holdCause := none }
  else if g.openLimit.active then { g.stop with state := .opened, holdCause := none }
  else g.hold (if g.commandHold then .command else .share)

/-- The key takes over in a direction (R115). -/
def Gate.keyTake (p : GateProfile) (d : Dir) (g : Gate) : Gate :=
  { g with
    keyDrive := some d
    keyBarred := false
    dir := some d
    travel := 0
    retries := p.stallRetries
    backoff := none
    key := ⟨.turned d, some (.turned d), 3⟩ }

/-- The key returns to AUTO (R116): a gate with a jam standing becomes JAMMED; else the state is taken from the limits. -/
def Gate.keyFree (g : Gate) : Gate :=
  let f := { g with keyDrive := none, keyStalled := false, keyBarred := false, key := ⟨.auto, some .auto, 3⟩ }
  if f.jam.isSome then f.jammed else f.fromLimits

/-- The limit a direction drives toward. -/
def LimitSwitch.dir : LimitSwitch → Dir
  | .openLimit => .toOpen
  | .closedLimit => .toClose

/-- A debounced limit set (R113). -/
def Gate.withLimit (w : LimitSwitch) (active : Bool) (g : Gate) : Gate :=
  match w with
  | .openLimit => { g with openLimit := ⟨active, 0⟩ }
  | .closedLimit => { g with closedLimit := ⟨active, 0⟩ }

/-- A limit becomes active, the key at AUTO and no jam standing (R120, R122, R124): it completes the motion toward it,
ends a back-off toward it, conflicts with a motion away from it, and takes a gate at rest. A motion away from it that begins in
the same instant (`begins`) starts from the limit: the gate is at the limit, and the demand that stands drives it (R103,
assumption log 47). -/
def Gate.limitReached (begins : Bool) (d : Dir) (g : Gate) : Gate :=
  if g.state = d.moving then g.complete d
  else if g.state = d.opposite.moving then
    if g.backoff.isSome then { g with backoff := none }
    else if begins then g.complete d
    else { g with jam := some .limits }
  else if g.state = .held ∨ g.state = .unknown then g.complete d
  else g

/-- A limit becomes inactive (R120): a gate at rest at it becomes UNKNOWN, with no direction. -/
def Gate.limitLeft (d : Dir) (g : Gate) : Gate :=
  if g.state = d.atLimit then { g with state := .unknown, dir := none } else g

/-- The opposite limit met while the key drives sets a jam with cause LIMITS and stops the motor, which the key drives no
further (R122, assumption log 16). -/
def Gate.limitUnderKey (d : Dir) (g : Gate) : Gate :=
  if g.state = d.opposite.moving then { g with jam := some .limits, keyBarred := true } else g

/-- A change of a debounced limit (R113, R120, R122). A limit that makes both active completes nothing: the resolution that
follows sets the jam. -/
def Gate.changeLimit (begins : Bool) (w : LimitSwitch) (active : Bool) (g : Gate) : Gate :=
  let g := g.withLimit w active
  if g.keyDrive.isSome then (if active then g.limitUnderKey w.dir else g)
  else if g.jam.isSome || g.bothLimits then g
  else if active then g.limitReached begins w.dir
  else g.limitLeft w.dir

/-- A stall (R115, R123). -/
def Gate.stall (g : Gate) : Gate :=
  if g.keyDrive.isSome then { g with keyStalled := true }
  else if g.backoff.isSome then { g with jam := some .stall }
  else if 0 < g.retries then { g with retries := g.retries - 1, backoff := some 0, stallRun := 0 }
  else { g with jam := some .stall }

/-- CLEAR at the gate controller (R127): only a standing jam is touched. -/
def Gate.clear (p : GateProfile) (g : Gate) : Gate :=
  if g.jam.isSome then
    if g.keyDrive.isSome then { g with jam := none, keyBarred := false }
    else Gate.fromLimits { g with jam := none, travel := 0, retries := p.stallRetries }
  else g

/-- The gate in FALLBACK, derived from the limits and the key (R129). -/
def Gate.deriveFallback (g : Gate) : Gate :=
  if g.bothLimits then
    { g with state := .jammed, jam := some .limits, holdCause := none }
  else
    match g.keyDrive with
    | some d =>
      if g.atTarget d then { g with state := d.atLimit, jam := none, holdCause := none }
      else { g with state := d.moving, jam := none, holdCause := none }
    | none =>
      if g.closedLimit.active then { g with state := .closed, jam := none, holdCause := none }
      else if g.openLimit.active then { g with state := .opened, jam := none, holdCause := none }
      else { g with state := .unknown, dir := none, jam := none, holdCause := none }

/-- The gate record at the end of START (R128, R130), from the limits and, with valid retention, from the domain. A state that a
limit gives has no direction (assumption log 57). In an inner bay, which holds no gate record (R111), it is UNKNOWN with no direction and no jam (assumption log 49). -/
def Gate.atEndOfStart (p : GateProfile) (valid : Bool) (ret : Retained) (openLim closedLim : Bool) : Gate :=
  let g := { Gate.atStart with
    retries := p.stallRetries, openLimit := ⟨openLim, 0⟩, closedLimit := ⟨closedLim, 0⟩ }
  if !p.present then g
  else if openLim && closedLim then { g with state := .jammed, jam := some .limits }
  else if closedLim then { g with state := .closed }
  else if openLim then { g with state := .opened }
  else if valid then
    match ret.gateState with
    | .jammed => { g with state := .jammed, jam := ret.gateJam, dir := ret.gateDir }
    | .closing | .opening | .held => { g with state := .held, holdCause := some .share, dir := ret.gateDir }
    | .unknown | .opened | .closed => g
  else g

/-- The gate record at the start into FALLBACK, before its state is derived (R129, R130). The retries left, for which no profile
gives stall retries, are 0 (assumption log 53). -/
def Gate.atFallback (openLim closedLim : Bool) : Gate :=
  { Gate.atStart with openLimit := ⟨openLim, 0⟩, closedLimit := ⟨closedLim, 0⟩ }

/-- A gate record put in place; a gate that becomes CLOSED from CLOSING or HELD without key drive counts one gate closure
(R120). -/
def State.putGate (g : Gate) (s : State) : State :=
  { s with gate := g, counters := s.counters.raiseIf .gateClosures (gateClosureCounted s.gate g) }

/-- The gate controller resolves (R114); an inner bay has no gate to resolve. -/
def State.resolveGate (s : State) : State :=
  if s.profile.gate.present then s.putGate (s.gate.resolve s.profile.gate) else s

/-- The MOTION share applied and the stall run settled (R118, R123); `b` is the state the event began in. -/
def State.applyMotion (b s : State) : State :=
  if s.profile.gate.present then
    s.putGate (Gate.settleStall b.gate (s.gate.applyShare s.profile.gate s.allot.shares.m))
  else s

/-- A limit pin set. -/
def Pins.withLimit (q : Pins) (w : LimitSwitch) (active : Bool) : Pins :=
  match w with
  | .openLimit => { q with openLimit := active }
  | .closedLimit => { q with closedLimit := active }

end Sys2Proof.Machine
end

