-- ==== Sys2Proof/Machine/ClosureOps.lean ====
section
/-! DEFINITION. The operations of the closure controller (chapter 5): the own origins, the phase acted on by the union
and by the gate, the phase exits, and the start phase. -/

namespace Sys2Proof.Machine

open Sys2Proof

/-- The own LEVEL and OUTSIDE origins as the stage and the outside filter stand (R89, R90). -/
def State.formOrigins (s : State) : State :=
  { s with
    closure := { s.closure with
      own :=
        { level := decide (3 ≤ s.level.stage.num)
          outside := s.profile.gate.present && s.closure.outside
          command := s.closure.own.command } } }

/-- The union acts on the phase (R94, R95, R101, R102). -/
def Closure.actOnUnion (wanted : Bool) (c : Closure) : Closure :=
  match c.phase with
  | .opened => if wanted then { c with phase := .warning, warnTimer := 0 } else c
  | .warning => if wanted then c else { c with phase := .opened, warnTimer := 0 }
  | .reopening => if wanted then { c with phase := .sealing } else c
  | .stopping | .clearing | .sealing | .sealed =>
    if wanted then { c with reopenHold := none } else { c with reopenHold := some (c.reopenHold.getD 0) }

/-- The gate acts on the phase (R99, R101): SEALING ends at CLOSED, REOPENING at OPEN or in a bay without a gate. -/
def Closure.actOnGate (gate : Option GateState) (c : Closure) : Closure :=
  match c.phase with
  | .sealing => if gate = some .closed then { c with phase := .sealed } else c
  | .reopening =>
    if gate = none ∨ gate = some .opened then { c with phase := .opened, blocked := false } else c
  | .opened | .warning | .stopping | .clearing | .sealed => c

/-- The union acts on the phase within the event (R92). -/
def State.actOnUnion (s : State) : State := { s with closure := s.closure.actOnUnion s.wanted }

/-- The demand of the phase handed to the gate controller (R104). -/
def State.handDemand (s : State) : State :=
  { s with gate := { s.gate with demand := s.closure.phase.gateDemand } }

/-- The gate state acts on the phase, whose demand is handed on (R99, R101, R104). -/
def State.actOnGate (s : State) : State :=
  State.handDemand { s with closure := s.closure.actOnGate s.reportedGate }

/-- The phase and the gate brought to rest with each other (R92, R99, R101, R104, R114): the union acts on the phase and the
phase's demand on the gate; the gate, resolved in full, hands its state on (R112, R114), which may end the phase; and the
demand of the phase it leads to acts on the gate. -/
def State.resolveClosure (s : State) : State :=
  s.actOnUnion.handDemand.resolveGate.actOnGate.resolveGate

/-- Entry to STOPPING at the end of WARNING (R95). -/
def Closure.toStopping (c : Closure) : Closure := { c with phase := .stopping, warnTimer := 0, clearanceTimer := 0 }

/-- Entry to CLEARING at the end of STOPPING (R96), at which the presence loop is read first (R97, assumption log 26). -/
def Closure.toClearing (loopClear : Bool) (c : Closure) : Closure :=
  { c with
    phase := .clearing, clearanceTimer := 0, loopRead := loopClear, loopClock := 0, presenceRun := 0
    maxClearTimer := 0 }

/-- The presence exit of CLEARING (R97). -/
def Closure.toSealing (gatePresent : Bool) (c : Closure) : Closure :=
  { c with
    phase := if gatePresent then .sealing else .sealed, loopRead := false, loopClock := 0, presenceRun := 0
    maxClearTimer := 0 }

/-- The expiry of the reopen hold (R102). -/
def Closure.toReopening (c : Closure) : Closure :=
  { c with
    phase := .reopening, reopenHold := none, clearanceTimer := 0, loopRead := false, loopClock := 0, presenceRun := 0
    maxClearTimer := 0 }

/-- CLEAR at the closure controller (R106). -/
def Closure.clear (c : Closure) : Closure :=
  { c with blocked := false, maxClearTimer := if c.phase = .clearing then 0 else c.maxClearTimer }

/-- The own COMMAND origin set or cleared (R91, R105). -/
def Closure.withCommand (v : Bool) (c : Closure) : Closure := { c with own := { c.own with command := v } }

/-- The start phase (R107). -/
def startPhase (gatePresent : Bool) (gate : GateState) (valid : Bool) (retainedPhase : Nat) : Phase :=
  if gatePresent then (if gate = .opened then .opened else .stopping)
  else if valid && decide (retainedPhase ≠ 0) then .stopping
  else .opened

/-- The closure controller at the end of START (R107, R108), before the union acts on the phase. -/
def Closure.atEndOfStart (gatePresent : Bool) (gate : GateState) (valid : Bool) (ret : Retained) : Closure :=
  { Closure.atStart with
    phase := startPhase gatePresent gate valid ret.phaseCode
    own := ⟨false, false, valid && ret.command⟩ }

/-- The origins in FALLBACK: LEVEL from the stage, OUTSIDE not formed, COMMAND clear (R110). -/
def State.fallbackOrigins (s : State) : State :=
  { s with closure := { s.closure with own := ⟨decide (3 ≤ s.level.stage.num), false, false⟩ } }

end Sys2Proof.Machine
end

