-- ==== Sys2Proof/Machine/LampOps.lean ====
section
/-! DEFINITION. The operations of the lamp controller (chapter 7): the band, the common level, the demands, the outputs, the
checks, and the fixed layouts of START and FALLBACK. -/

namespace Sys2Proof.Machine

open Sys2Proof

/-! ### The ambient band (R133) -/

/-- The threshold of band k, taken as at least the one below it. -/
def ambientThreshold (p : Profile) : Nat → Nat
  | 0 => 0
  | 1 => p.a1
  | 2 => max p.a1 p.a2
  | _ => max (max p.a1 p.a2) p.a3

/-- A band by its number. -/
def Band.ofNum : Nat → Band
  | 0 => .night
  | 1 => .dusk
  | 2 => .day
  | _ => .glare

/-- The highest k with code ≥ Ak, or 0. -/
def bandReached (p : Profile) (code : Nat) : Nat :=
  if ambientThreshold p 3 ≤ code then 3 else if ambientThreshold p 2 ≤ code then 2
  else if ambientThreshold p 1 ≤ code then 1 else 0

/-- Whether a code has fallen below band k with its hysteresis of 5 %. -/
def belowBand (p : Profile) (code k : Nat) : Bool :=
  decide (code < ambientThreshold p k - ambientThreshold p k * 5 / 100)

/-- The fall from band k, repeated at the new band. -/
def fallFrom (p : Profile) (code : Nat) : Nat → Nat
  | 0 => 0
  | k + 1 => if belowBand p code (k + 1) then fallFrom p code k else k + 1

/-- The band after a tick: without hysteresis at the first one after START. -/
def nextBand (p : Profile) (formed : Bool) (held : Band) (code : Nat) : Band :=
  let r := bandReached p code
  if !formed then Band.ofNum r
  else if held.num < r then Band.ofNum r
  else Band.ofNum (fallFrom p code held.num)

/-! ### Levels and demands (R134, R135) -/

/-- The level of a band. -/
def bandLevel (p : Profile) : Band → Nat
  | .night => p.nightLevel
  | .dusk => p.duskLevel
  | .day => p.dayLevel
  | .glare => p.glareLevel

/-- The target: the band level, the minimum level in SEALED, never below the minimum level (R134). -/
def targetLevel (p : Profile) (band : Band) (phase : Phase) : Nat :=
  if phase = .sealed then p.minLevel else max (bandLevel p band) p.minLevel

/-- A sum over the channels. -/
def sumChannels (f : Fin 8 → Nat) : Nat := channels.foldl (fun a i => a + f i) 0

/-- ΣR: the rated draws of the lit carriageway set (R134). -/
def litDraw (lp : Eight LampProfile) (recs : Eight LampRec) : Nat :=
  sumChannels fun i => if (recs.get i).inLitSet (lp.get i) then (lp.get i).ratedDraw else 0

/-- The common level a LIGHTING share gives (R134). Without a lit carriageway set it is not formed and stands. -/
def commonLevel (minLevel target sumR share standing : Nat) : Nat :=
  if sumR = 0 then standing else minLevel + min (target - minLevel) (share * 100 / sumR)

/-- Whether the aspect requires a signal class lit, steady or flashing (R135, R137, R138). -/
def aspectLights (p : Profile) (a : Aspect) : LampClass → Bool
  | .signalRed => decide (a = .red)
  | .signalGreen => decide (a = .green)
  | .signalAmber => match amberPattern p a with | some q => q.everLit | none => false
  | .unused | .carriageway | .guidance => false

/-- A channel's part of the T demand (R135). -/
def LampRec.standingPart (p : Profile) (lp : LampProfile) (a : Aspect) (r : LampRec) : Nat :=
  if !r.health.inService then 0
  else
    match lp.cls with
    | .unused => 0
    | .carriageway =>
      if r.submerged then 0
      else
        match r.manual with
        | none => drawAt lp.ratedDraw p.minLevel
        | some v => drawAt lp.ratedDraw v
    | .guidance =>
      if r.submerged then 0
      else
        match r.manual with
        | none => lp.ratedDraw
        | some v => if 50 ≤ v then lp.ratedDraw else 0
    | .signalRed | .signalAmber | .signalGreen => if aspectLights p a lp.cls then lp.ratedDraw else 0

/-- The lamp part of the T demand (R135). -/
def State.lampStanding (s : State) : Nat :=
  sumChannels fun i => (s.lamps.recs.get i).standingPart s.profile (s.profile.lamps.get i) s.lamps.aspect

/-- The target as the phase and the band stand (R134). -/
def State.target (s : State) : Nat := targetLevel s.profile s.lamps.band s.closure.phase

/-- The L demand, saturated at 255 LU (R135). -/
def State.lightingDemand (s : State) : Nat :=
  min (drawAt (litDraw s.profile.lamps s.lamps.recs) (s.target - s.profile.minLevel)) 255

/-! ### Outputs -/

/-- What decides the outputs beside the records (R132 step 3). -/
structure LampView where
  common : Nat
  aspect : Aspect
  phase : Phase
  amber : Nat
  guidance : Nat
deriving DecidableEq, Repr, Inhabited

/-- Full output or none. -/
def onOff (b : Bool) : Nat := if b then 100 else 0

/-- The output of a channel (R131, R134, R136 to R140, R144). -/
def LampRec.outputOf (p : Profile) (v : LampView) (lp : LampProfile) (r : LampRec) : Nat :=
  if !r.health.inService then 0
  else
    match lp.cls with
    | .unused => 0
    | .carriageway => if r.submerged then 0 else r.manual.getD v.common
    | .guidance =>
      if r.submerged then 0
      else
        match r.manual with
        | some m => onOff (decide (50 ≤ m))
        | none =>
          match guidancePattern p v.phase with
          | some q => onOff (q.lit v.guidance)
          | none => 100
    | .signalRed => onOff (decide (v.aspect = .red))
    | .signalGreen => onOff (decide (v.aspect = .green))
    | .signalAmber =>
      match amberPattern p v.aspect with
      | some q => onOff (q.lit v.amber)
      | none => 0

/-- What decides the outputs as the state stands. -/
def State.lampView (s : State) : LampView :=
  ⟨s.lamps.common, s.lamps.aspect, s.closure.phase, s.lamps.amberCounter, s.lamps.guidanceCounter⟩

/-- Every output set from its record and what stands (R132). -/
def setOutputs (p : Profile) (v : LampView) (recs : Eight LampRec) : Eight LampRec :=
  Eight.ofFn fun i => { recs.get i with output := (recs.get i).outputOf p v (p.lamps.get i) }

/-- The outputs set as the state stands. -/
def State.setLamps (s : State) : State :=
  { s with lamps := { s.lamps with recs := setOutputs s.profile s.lampView s.lamps.recs } }

/-- The common level formed once, with the share that stands, and the outputs set (R134, R135). -/
def State.lightLamps (s : State) : State :=
  State.setLamps
    { s with
      lamps := { s.lamps with
        common := commonLevel s.profile.minLevel s.target (litDraw s.profile.lamps s.lamps.recs) s.allot.shares.l
          s.lamps.common } }

/-! ### What other blocks hand on -/

/-- Whether a channel is submerged (R140). -/
def submergedAt (p : Profile) (stage : Stage) (level : Nat) (lp : LampProfile) : Bool :=
  decide (stage = .submerged) && decide (lp.cls = .carriageway ∨ lp.cls = .guidance) &&
  decide (lp.mountHeight ≤ level + p.submergenceMargin)

/-- The submerged indications (R140). -/
def formSubmerged (p : Profile) (stage : Stage) (level : Nat) (recs : Eight LampRec) : Eight LampRec :=
  Eight.ofFn fun i => { recs.get i with submerged := submergedAt p stage level (p.lamps.get i) }

/-- The counter of a flashing group after an event (R139): 0 where the group shows no flashing pattern or its pattern has
changed within the event. -/
def groupCounter (was now : Option Pattern) (changed : Bool) (counter : Nat) : Nat :=
  if flashing now && !(changed && decide (now.isSome)) && was.isSome then counter else 0

/-- The submerged indications, the degraded flag, the aspect and the counters' restarts (R137 to R140); `b` is the state
the event began in. A group shows the pattern of the aspect or the phase, whether or not a lamp of it can be lit (assumption log
60). -/
def State.formLamps (b s : State) : State :=
  let recs := formSubmerged s.profile s.level.stage s.level.level s.lamps.recs
  let degraded := degradedOf s.profile.lamps recs
  let aspect := aspectOf s.profile.lamps s.closure.phase s.reportedGate degraded
  { s with
    lamps := { s.lamps with
      recs := recs
      degraded := degraded
      aspect := aspect
      amberCounter :=
        groupCounter (amberPattern s.profile b.lamps.aspect) (amberPattern s.profile aspect)
          (decide (b.lamps.aspect ≠ aspect)) s.lamps.amberCounter
      guidanceCounter :=
        groupCounter (guidancePattern s.profile b.closure.phase) (guidancePattern s.profile s.closure.phase)
          false s.lamps.guidanceCounter } }

/-! ### The tick (R132, R139, R141 to R143) -/

/-- A flash counter advanced by a tick (R139). -/
def advance (q : Option Pattern) (counter : Nat) : Nat :=
  match q with
  | some q => if q.flashes then (if q.on + q.off ≤ counter + 1 then 0 else counter + 1) else 0
  | none => 0

/-- Steps 1 to 3 of a tick: the band, the counters and the outputs. -/
def State.beginTick (r : LampReads) (s : State) : State :=
  State.setLamps
    { s with
      pins := { s.pins with ambient := r.ambient, lampCurrents := r.currents }
      lamps := { s.lamps with
        lampTimer := 0
        band := nextBand s.profile s.lamps.bandFormed s.lamps.band r.ambient
        bandFormed := true
        amberCounter := advance (amberPattern s.profile s.lamps.aspect) s.lamps.amberCounter
        guidanceCounter := advance (guidancePattern s.profile s.closure.phase) s.lamps.guidanceCounter } }

/-- The open threshold compared at an output (R141). -/
def openThresholdAt (p : Profile) (lp : LampProfile) (output : Nat) : Nat :=
  if lp.cls = .carriageway then p.openThreshold * output / 100 else p.openThreshold

/-- A check of one lamp (R141 to R143). -/
def LampRec.check (p : Profile) (lp : LampProfile) (code : Nat) (r : LampRec) : LampRec :=
  if r.output = 0 then r
  else if code < openThresholdAt p lp r.output then
    let n := r.filterCount + 1
    if p.filterLimit ≤ n then { r with filterCount := n, shortRun := 0, health := .failed, output := 0 }
    else { r with filterCount := n, shortRun := 0, health := if r.health = .ok then .suspect else r.health }
  else if p.shortThreshold < code then
    let n := min (r.shortRun + 1) 3
    if n = 3 then { r with filterCount := 0, shortRun := n, health := .shorted, output := 0 }
    else { r with filterCount := 0, shortRun := n, health := if r.health = .suspect then .ok else r.health }
  else { r with filterCount := 0, shortRun := 0, health := if r.health = .suspect then .ok else r.health }

/-- Every lit lamp checked. -/
def checkLamps (p : Profile) (currents : Eight Nat) (recs : Eight LampRec) : Eight LampRec :=
  Eight.ofFn fun i => (recs.get i).check p (p.lamps.get i) (currents.get i)

/-- How many lamps a tick takes out of service (R143). -/
def newlyOut (was now : Eight LampRec) : Nat :=
  sumChannels fun i => if (was.get i).health.inService && !(now.get i).health.inService then 1 else 0

/-- A counter raised a number of times (R178). -/
def Counters.raiseTimes (c : Counters) (n : CounterName) : Nat → Counters
  | 0 => c
  | k + 1 => (c.raise n).raiseTimes n k

/-- Step 4 of a tick (R141 to R143). -/
def State.checkTick (r : LampReads) (s : State) : State :=
  let recs := checkLamps s.profile r.currents s.lamps.recs
  { s with
    lamps := { s.lamps with recs := recs }
    counters := s.counters.raiseTimes .lampFaults (newlyOut s.lamps.recs recs) }

/-- What a tick changes before its results are handed on. In FALLBACK no band, pattern or check is used (R147). -/
def State.takeTick (r : LampReads) (s : State) : State :=
  match s.node.state with
  | .start => s
  | .fallback =>
    { s with
      pins := { s.pins with ambient := r.ambient, lampCurrents := r.currents }
      lamps := { s.lamps with lampTimer := 0 } }
  | _ => (s.beginTick r).checkTick r

/-! ### Commands -/

/-- A channel's record changed. -/
def State.updateLamp (i : Fin 8) (f : LampRec → LampRec) (s : State) : State :=
  { s with lamps := { s.lamps with recs := s.lamps.recs.set i (f (s.lamps.recs.get i)) } }

/-- A lamp returned to service by CLEAR (R143). -/
def LampRec.clear (r : LampRec) : LampRec :=
  if r.health.inService then r else { r with health := .ok, filterCount := 0, shortRun := 0 }

/-- CLEAR at the lamp controller (R143). -/
def Lamps.clear (u : Lamps) : Lamps := { u with recs := Eight.ofFn fun i => (u.recs.get i).clear }

/-! ### Starts -/

/-- A lamp record at the end of START (R148): a FAILED or SHORTED health is restored, but not to an UNUSED channel. -/
def LampRec.atEndOfStart (cls : LampClass) (valid : Bool) (ret : LampHealth) : LampRec :=
  ⟨none, if valid && decide (cls ≠ .unused) then ret else .ok, 0, 0, false, 0⟩

/-- The lamp controller at the end of START (R148), before its outputs are set. -/
def Lamps.atEndOfStart (lp : Eight LampProfile) (valid : Bool) (ret : Eight LampHealth) : Lamps :=
  { Lamps.inStart with recs := Eight.ofFn fun i => LampRec.atEndOfStart (lp.get i).cls valid (ret.get i) }

/-- The output of a channel in FALLBACK (R147): red steady, amber and green unlit, guidance and carriageway at 100 %. -/
def fallbackOutput (i : Fin 8) (health : LampHealth) : Nat :=
  if !health.inService then 0
  else
    match (builtInLamps.get i).cls with
    | .signalRed | .guidance | .carriageway => 100
    | .unused | .signalAmber | .signalGreen => 0

/-- The lamps of FALLBACK (R147). -/
def State.fallbackLamps (s : State) : State :=
  { s with
    lamps := { s.lamps with
      recs := Eight.ofFn fun i =>
        { s.lamps.recs.get i with output := fallbackOutput i (s.lamps.recs.get i).health }
      common := 100
      aspect := .red
      degraded := false } }

end Sys2Proof.Machine
end

