-- ==== Sys2Proof/Machine/LineOps.lean ====
section
/-! DEFINITION. The operations of the line controller (chapter 8): the receive frame and its validation, the transmit queue,
the reports, and the attempts, collisions and completions of the entry in flight. -/

namespace Sys2Proof.Machine

open Sys2Proof

/-! ### Receiving (R149 to R152) -/

/-- A character added to the frame being assembled, or opening one (R150): 56 are kept, the rest counted. -/
def addChar (rx : Option RxFrame) (c : Byte) (stopOk : Bool) : Option RxFrame :=
  match rx with
  | none => some ⟨[c], 1, !stopOk⟩
  | some f => some ⟨if f.count < 56 then f.kept ++ [c] else f.kept, f.count + 1, f.badStop || !stopOk⟩

/-- The time of silence that closes a frame: 1.5 character times (R150). -/
def closeSilence : Time := 240

/-- What validation makes of a closed frame (R152). -/
inductive FrameVerdict where
  | formatError
  | crcError
  | good (kind src dest seq : Byte) (payload : List Byte)
deriving DecidableEq, Repr, Inhabited

/-- Check 4: the two check characters (R152, R194). -/
def checkOk (cs : List Byte) (n : Nat) : Bool :=
  decide ((crc16 ((cs.drop 1).take (5 + n))).toNat = wordAt cs (6 + n))

/-- Check 6: the source is 0 to 15 and the destination 0 to 15 or 255 (R152). -/
def addressesOk (src dest : Byte) : Bool :=
  decide (src.toNat ≤ 15) && (decide (dest.toNat ≤ 15) || decide (dest.toNat = 255))

/-- Check 7 (R152). -/
def kindRulesOk (kind src dest seq : Byte) : Bool :=
  if kind = kindCommand then decide (src = 0) && decide (seq = 0)
  else if kind = kindStatus then decide (src ≠ 0) && decide (dest.toNat = 255)
  else decide (seq = 0)

/-- The checks of R152 in their order. -/
def validate (f : RxFrame) : FrameVerdict :=
  let cs := f.kept
  let n := natAt cs 5
  if byteAt cs 0 ≠ syncChar then .formatError
  else if f.badStop || decide (56 < f.count) then .formatError
  else if decide (f.count < 8) || decide (48 < n) || decide (f.count ≠ 8 + n) then .formatError
  else if !checkOk cs n then .crcError
  else
    let kind := byteAt cs 1
    let payload := (cs.drop 6).take n
    if kind ≠ kindStatus ∧ kind ≠ kindCommand ∧ kind ≠ kindReply then .formatError
    else if !addressesOk (byteAt cs 2) (byteAt cs 3) then .formatError
    else if !kindRulesOk kind (byteAt cs 2) (byteAt cs 3) (byteAt cs 4) then .formatError
    else if decide (kind = kindStatus) && !statusContentOk payload then .formatError
    else .good kind (byteAt cs 2) (byteAt cs 3) (byteAt cs 4) payload

/-! ### The transmit queue (R154 to R156) -/

/-- The oldest waiting entry becomes in flight where nothing is (R154). -/
def State.fillFlight (s : State) : State :=
  match s.line.flight with
  | some _ => s
  | none =>
    match s.line.waiting with
    | [] => s
    | e :: es =>
      { s with
        line := { s.line with
          waiting := es, flight := some ⟨e, none, 0⟩, attempts := 0, newer := false, access := .defer }
        counters := s.counters.raiseIf .deferrals s.line.busyWithOther }

/-- A STATUS in flight whose first attempt has begun (R155). -/
def Line.statusBegun (l : Line) : Bool :=
  match l.flight with
  | some f => decide (f.entry = .status) && f.frame.isSome
  | none => false

/-- Whether the newest waiting entry is a RESTART REPLY (R165). -/
def newestIsRestart (w : List Entry) : Bool :=
  match w.getLast? with
  | some e => e.isRestartReply
  | none => false

/-- The waiting entries after a STATUS request (R155): a waiting marker is kept; a marker joins; with four REPLYs waiting it
takes the place of the newest. -/
def requestIn (w : List Entry) : List Entry :=
  if .status ∈ w then w else if w.length < 4 then w ++ [.status] else w.dropLast ++ [.status]

/-- Whether a STATUS request drops a REPLY (R155). -/
def requestDrops (w : List Entry) : Bool := decide (.status ∉ w) && decide (4 ≤ w.length)

/-- A STATUS request, and the restart of the report timer that every request brings (R155, R157). In CLASH it is discarded
(R165), and in START nothing reports. -/
def State.requestStatus (s : State) : State :=
  if s.node.state.transmits then
    State.fillFlight
      { s with
        line := { s.line with
          waiting := requestIn s.line.waiting
          newer := s.line.newer || s.line.statusBegun
          reportTimer := 0
          replyLeft := s.line.replyLeft || (requestDrops s.line.waiting && newestIsRestart s.line.waiting) }
        counters := s.counters.raiseIf .queueDrops (requestDrops s.line.waiting) }
  else s

/-- A REPLY handed to the line controller (R156): it joins, or with four waiting it is dropped. In CLASH it is discarded
(R165). -/
def State.enqueueReply (payload : List Byte) (s : State) : State :=
  if s.node.state.transmits then
    if s.line.waiting.length < 4 then
      State.fillFlight { s with line := { s.line with waiting := s.line.waiting ++ [.reply payload] } }
    else
      { s with
        line := { s.line with replyLeft := s.line.replyLeft || (Entry.reply payload).isRestartReply }
        counters := s.counters.raise .queueDrops }
  else s

/-- Whether the entry in flight is a RESTART REPLY. -/
def Line.flightIsRestart (l : Line) : Bool :=
  match l.flight with
  | some f => f.entry.isRestartReply
  | none => false

/-- The entry in flight leaves the queue, and the oldest waiting entry becomes in flight (R154, R162, R164). With none waiting
the attempt count is then 0 and the access wait NONE (assumption log 54). -/
def State.leaveFlight (s : State) : State :=
  State.fillFlight
    { s with
      line := { s.line with
        flight := none, attempts := 0, newer := false, access := .none
        replyLeft := s.line.replyLeft || s.line.flightIsRestart } }

/-- The queue emptied and the report timer stopped at entry to CLASH; a character under way goes on to its end (R165). -/
def Line.flush (l : Line) : Line :=
  { l with
    waiting := [], flight := none, attempts := 0, newer := false, access := .none, reportTimer := 0, tail := l.lastOwn
    replyLeft := l.replyLeft || l.flightIsRestart || l.waiting.any Entry.isRestartReply }

/-- The line controller as a start leaves it (R167), but that a character under way goes on to its end (R165, R183). -/
def Line.cut (l : Line) : Line := { Line.atStart with sinceOwn := l.sinceOwn, tail := l.lastOwn }

/-! ### Frames of the node (R158, R168) -/

/-- The STATUS frame formed from the node's state (R158). -/
def State.statusFrame (s : State) : List Byte :=
  frameOf kindStatus (stationByte s.node.station) 255 (byte s.line.ownSeq)
    (statusPayload s.ownReport s.pumps.p1.state s.pumps.p2.state s.pumps.p1.cause s.pumps.p2.cause)

/-- The frame of an entry at the start of its first attempt. -/
def State.entryFrame (s : State) : Entry → List Byte
  | .status => s.statusFrame
  | .reply p => frameOf kindReply (stationByte s.node.station) 0 0 p

/-! ### Attempts (R159 to R164) -/

/-- The defer: 4 character times of silence (R159). -/
def deferSilence : Time := 4 * charTime

/-- The silence a retry waits for: 4 + 4 × k character times (R161). -/
def backoffSilence (k : Nat) : Time := (4 + 4 * k) * charTime

/-- k of R161, from the station number and the attempt count. -/
def backoffK (st : Fin 15) (attempts : Nat) : Nat := ((st.val + 1) * 7 + attempts * 5) % 16

/-- The first character of an attempt starts: the frame is fixed if it was not, the access wait becomes NONE and the echo
window is set (R151, R158, R159). -/
def State.beginAttempt (f : Flight) (s : State) : State :=
  let frame := f.frame.getD (s.entryFrame f.entry)
  { s with
    line := { s.line with
      flight := some { f with frame := some frame, sent := 1 }
      access := .none
      silence := 0
      sinceOwn := 0
      lastChar := .own
      echo := true
      rx := addChar s.line.rx (byteAt frame 0) true } }

/-- The next character of the node's own transmission starts. -/
def State.sendChar (f : Flight) (s : State) : State :=
  { s with
    line := { s.line with
      flight := some { f with sent := f.sent + 1 }
      silence := 0
      sinceOwn := 0
      lastChar := .own
      rx := addChar s.line.rx (byteAt (f.frame.getD []) f.sent) true } }

/-- The characters that remain of the node's own frame, all sent: the last of them starts now. -/
def State.sendRest (f : Flight) (frame : List Byte) (s : State) : State :=
  { s with
    line := { s.line with
      flight := some { f with sent := frame.length }
      silence := 0
      sinceOwn := 0
      lastChar := .own
      rx := (frame.drop f.sent).foldl (fun rx c => addChar rx c true) s.line.rx } }

/-- A collision that leads to a retry (R161). -/
def State.backOff (f : Flight) (s : State) : State :=
  { s with
    line := { s.line with
      flight := some { f with sent := 0 }
      access := .backoff (backoffK s.node.station s.line.attempts) } }

/-- Supersession (R163): the waiting marker becomes in flight ahead of the REPLYs, with the attempt count kept. -/
def State.supersede (s : State) : State :=
  { s with
    line := { s.line with
      waiting := s.line.waiting.erase .status
      flight := some ⟨.status, none, 0⟩
      newer := false
      access := .backoff (backoffK s.node.station s.line.attempts) } }

/-- A collision of the entry in flight (R160): counted, then a give-up (R162), a supersession (R163) or a retry (R161). -/
def State.collide (f : Flight) (s : State) : State :=
  let c := { s with
    line := { s.line with attempts := s.line.attempts + 1 }
    counters := s.counters.raise .collisions }
  if 8 ≤ c.line.attempts then (c.count .giveUps).leaveFlight
  else if decide (f.entry = .status) && c.line.newer && decide (.status ∈ c.line.waiting) then c.supersede
  else c.backOff f

/-- The shares a STATUS frame carries: payload bytes 16 to 19 (section 11.2). -/
def frameShares (frame : List Byte) : Demands :=
  ⟨natAt frame 22, natAt frame 23, natAt frame 24, natAt frame 25⟩

/-- An attempt completes (R164). -/
def State.completeAttempt (f : Flight) (s : State) : State :=
  match f.entry with
  | .status =>
    State.leaveFlight
      { s with
        line := { s.line with
          lastShares := frameShares (f.frame.getD [])
          ownSeq := nextSeq (natAt (f.frame.getD []) 4) }
        counters := s.counters.raise .statusSent }
  | .reply _ => (s.count .replySent).leaveFlight

/-! ### Prompt reports (R157) -/

/-- Whether a share differs by 10 LU or more. -/
def apart (a b : Nat) : Bool := decide (10 ≤ absDiff a b)

/-- Whether any own share differs by 10 LU or more from the last-sent shares. -/
def sharesMoved (now last : Demands) : Bool :=
  apart now.t last.t || apart now.m last.m || apart now.p last.p || apart now.l last.l

/-- Whether an event that began in state `b` makes a prompt report (R157), but for the shares. -/
def State.promptDue (b s : State) : Bool :=
  decide (b.level.stage ≠ s.level.stage) || decide (b.level.sensorFault ≠ s.level.sensorFault) ||
  decide (b.closure.own ≠ s.closure.own) || decide (b.closure.phase ≠ s.closure.phase) ||
  decide (b.reportedGate ≠ s.reportedGate) ||
  decide (b.pumps.p1.state ≠ s.pumps.p1.state) || decide (b.pumps.p1.cause ≠ s.pumps.p1.cause) ||
  decide (b.pumps.p2.state ≠ s.pumps.p2.state) || decide (b.pumps.p2.cause ≠ s.pumps.p2.cause) ||
  decide (b.allot.ownSag ≠ s.allot.ownSag) || decide (b.node.state ≠ s.node.state)

/-- One prompt report for all the causes of an event (R157). `passed` says that an allotment result was handed on. -/
def State.prompt (b : State) (passed : Bool) (s : State) : State :=
  if State.promptDue b s || (passed && sharesMoved s.allot.shares s.line.lastShares) then s.requestStatus else s

end Sys2Proof.Machine
end

