-- ==== Sys2Proof/Machine/StartOps.lean ====
section
/-! DEFINITION. The starts (chapter 10): the rest values every start begins with, the beginning of START, and the values
each block takes at the end of START into LISTEN and into FALLBACK. -/

namespace Sys2Proof.Machine

open Sys2Proof

/-- Every block as START has it, with the outputs at rest (R183, R184): the node is in START, its flags clear, and a frame in
transmission is cut after the character under way. The pins, the retention domain, the waiting commands and the strap readings
stay. -/
def State.atRest (s : State) : State :=
  { s with
    node := { s.node with
      state := .start, listenTimer := 0, strapsDue := false, profileValid := false, retentionValid := false, readClock := 0 }
    profile := Profile.blank
    level := LevelMonitor.atStart 65535
    picture := Picture.atStart
    allot := Allotment.atStart .mains 4095
    demands := Demands.zero
    pumps := Pumps.atStart
    closure := Closure.atStart
    gate := Gate.atStart
    lamps := Lamps.inStart
    line := s.line.cut
    restartPending := false
    counters := Counters.zero }

/-- START begins (R184 steps 1 to 3): the straps are read (R185) and retention is judged (R189), always valid after a RESTART,
else by the RETAIN reading and the check. With valid retention the counters keep their values (R178). The strap readings of a
START that a RESTART begins come with END_OF_START (assumption log 35). -/
def State.beginStart (byRestart : Bool) (s : State) : State :=
  let valid := byRestart || (s.pins.retain && s.retention.intact)
  let r := s.atRest
  { r with
    node := { r.node with
      station := strapStation s.pins.station
      strapZero := decide (s.pins.station = 0)
      retainReading := s.pins.retain
      strapsDue := byRestart
      retentionValid := valid }
    counters := if valid then s.retention.items.counters else Counters.zero }

/-- The straps and the backup supply as an event reports them. -/
def Pins.withStart (q : Pins) (p : StartPins) : Pins :=
  { q with station := p.station, retain := p.retain, backup := p.backup }

/-- START begins where the supply stands and the RESET pin is released; else the node stays at rest (R183). -/
def State.startIfReady (s : State) : State :=
  if s.pins.mainSupply && !s.pins.resetHeld then s.beginStart false else s.atRest

/-! ### The end of START (R184, R186) -/

/-- The straps read in a START that a RESTART began (R184 step 2, R185). -/
def State.readStraps (r : StartReads) (s : State) : State :=
  if s.node.strapsDue then
    { s with
      pins := { s.pins with station := r.station, retain := r.retain }
      node := { s.node with
        station := strapStation r.station, strapZero := decide (r.station = 0), retainReading := r.retain
        strapsDue := false } }
  else s

/-- The bytes the node sends before the record: the read command 03h and three address bytes of 0 (R186). -/
def readCommand : List Byte := [3, 0, 0, 0]

/-- The inputs read at the end of START (R45, R113). -/
def Pins.withReads (q : Pins) (r : StartReads) : Pins :=
  { q with
    openLimit := r.openLimit
    closedLimit := r.closedLimit
    source := if r.generator then .generator else .mains }

/-- The supply source read from the GEN input (R45). -/
def supplyRead (r : StartReads) : Supply := if r.generator then .generator else .mains

/-- The zero code at the end of START (R21): the retained one where it is valid and within the drift limit. -/
def startZero (p : Profile) (valid : Bool) (ret : Retained) : Nat :=
  if valid && decide (absDiff ret.zeroCode p.zeroNominal ≤ p.driftLimit) then ret.zeroCode else p.zeroNominal

/-- A pump's record at the end of START from the domain (R88): a retained item of an ABSENT pump is discarded; a latched
TRIPPED pump whose reaction is now RETRY starts its retry timer. -/
def PumpRec.atEndOfStart (pp : PumpProfile) (valid : Bool) (ret : RetainedPump) : PumpRec :=
  if valid && pp.present then
    match ret.fault with
    | .none => { PumpRec.atStart with tripCount := ret.tripCount }
    | .locked c => { PumpRec.atStart with tripCount := ret.tripCount, fault := .locked c }
    | .tripped c =>
      { PumpRec.atStart with
        tripCount := ret.tripCount, fault := .tripped c, latched := true,
        retry := if pp.latch then none else some 0 }
  else PumpRec.atStart

/-- The lead role at the end of START (R72, R88): the retained one, passed on where that pump is ABSENT. -/
def startLead (p : Profile) (valid : Bool) (ret : PumpNo) : PumpNo :=
  let n := if valid then ret else .one
  if !(p.pump n).present && (p.pump n.other).present then n.other else n

/-- The pump controller at the end of START (R88). -/
def Pumps.atEndOfStart (p : Profile) (valid : Bool) (ret : Retained) : Pumps :=
  { Pumps.atStart with
    p1 := PumpRec.atEndOfStart p.pump1 valid ret.pump1
    p2 := PumpRec.atEndOfStart p.pump2 valid ret.pump2
    lead := startLead p valid ret.lead }

/-- Each block at the end of START into LISTEN (R184 step 5), before the first pass and the hand-overs of the event. -/
def State.intoListen (p : Profile) (r : StartReads) (s : State) : State :=
  let valid := s.node.retentionValid
  let ret := s.retention.items
  let gate := Gate.atEndOfStart p.gate valid ret r.openLimit r.closedLimit
  { s with
    node := { s.node with state := .listen, listenTimer := 0, profileValid := true, readClock := 0 }
    profile := p
    level := LevelMonitor.atStart (startZero p valid ret)
    picture := Picture.atStart
    allot := Allotment.atStart (supplyRead r) s.pins.feederSense
    demands := Demands.zero
    pumps := Pumps.atEndOfStart p valid ret
    closure := Closure.atEndOfStart p.gate.present gate.state valid ret
    gate := gate
    lamps := Lamps.atEndOfStart p.lamps valid ret.healths
    line := s.line.cut
    restartPending := false
    counters := if valid then ret.counters else Counters.zero }

/-- A pump's record restored into FALLBACK (R184 step 6). -/
def PumpRec.atFallback (valid : Bool) (ret : RetainedPump) : PumpRec :=
  if valid then
    match ret.fault with
    | .none => { PumpRec.atStart with tripCount := ret.tripCount }
    | .locked c => { PumpRec.atStart with tripCount := ret.tripCount, fault := .locked c }
    | .tripped c => { PumpRec.atStart with tripCount := ret.tripCount, fault := .tripped c, latched := true }
  else PumpRec.atStart

/-- The items of the domain a start into FALLBACK leaves or writes (R189): with valid retention the domain's own; without, the
zero code 65535, the gate UNKNOWN, the phase OPEN and COMMAND clear. -/
def fallbackItems (valid : Bool) (ret : Retained) : Retained :=
  if valid then ret
  else
    { ret with
      zeroCode := 65535, gateState := .unknown, gateDir := none, gateJam := none, phaseCode := 0, command := false }

/-- Each block at the end of START into FALLBACK (R184 step 6, R193), before the fixed behaviour acts. -/
def State.intoFallback (r : StartReads) (s : State) : State :=
  let valid := s.node.retentionValid
  let ret := s.retention.items
  { s with
    node := { s.node with state := .fallback, listenTimer := 0, profileValid := false, readClock := 0 }
    profile := Profile.blank
    level := LevelMonitor.atStart (if valid then ret.zeroCode else 65535)
    picture := Picture.atStart
    allot := Allotment.atStart (supplyRead r) s.pins.feederSense
    demands := Demands.zero
    pumps :=
      { Pumps.atStart with
        p1 := PumpRec.atFallback valid ret.pump1
        p2 := PumpRec.atFallback valid ret.pump2
        lead := if valid then ret.lead else .one }
    closure := Closure.atStart
    gate := Gate.atFallback r.openLimit r.closedLimit
    lamps := Lamps.atEndOfStart builtInLamps valid ret.healths
    line := s.line.cut
    restartPending := false
    counters := if valid then ret.counters else Counters.zero
    retention := { s.retention with items := fallbackItems valid ret } }

end Sys2Proof.Machine
end

