-- ==== Sys2Proof/Machine/Settle.lean ====
section
/-! DEFINITION. One event brought to its end: an event changes its own items, and what follows from the change in every block
comes about within the same event (R13, R29, R57, R64, R92, R104, R112, R135, R157, R182). `settle` is that, with the
order the rules give; `endEvent` adds the copies into the retention domain (R188) and the restart a RESTART REPLY's
departure brings (R165, R180). Each stage of `settle` acts on what stands, so an event that changed nothing leaves all as
it was. In each, `b` is the state the event began in. -/

namespace Sys2Proof.Machine

open Sys2Proof

/-- The four own demands formed (R73, R112, R135): each controller's parts, T saturated at 255. -/
def State.formDemands (s : State) : State :=
  { s with
    demands :=
      { t := min (s.pumpStanding + s.gate.standingDemand s.profile.gate + s.lampStanding) 255
        m := s.gate.motionDemand s.profile.gate
        p := s.pumpingDemand
        l := s.lightingDemand } }

/-- The first half of an event's consequences: origins, sag, phase and gate, wants, lamps, demands. -/
def State.settleDemands (b s : State) : State :=
  State.formDemands (State.formLamps b (State.formWants b s.formOrigins.updateSag.resolveClosure))

/-- The second half: the sag change taken by the pump controller before the pass (R58), the pass where one is due (R43), and
its result taken by the pump, gate and lamp controllers (R57). -/
def State.settleShares (b s : State) : State :=
  State.lightLamps (State.applyMotion b (State.runPass b (State.takeSagChange b s)).applyCeilings)

/-- All that follows from an event in LISTEN, ACTIVE, ISOLATED and CLASH, with its one prompt report last (R157, R182). -/
def State.settleRunning (b s : State) : State :=
  let d := State.settleDemands b s
  State.prompt b (State.passDue b d) (State.settleShares b d)

/-- The demands a STATUS of FALLBACK carries: T and P 255, the others 0 (R158, assumption log 14). -/
def fallbackDemands : Demands := ⟨255, 0, 255, 0⟩

/-- All that follows from an event in FALLBACK: the fixed behaviour of the blocks (R87, R110, R129, R147, R193). -/
def State.settleFallback (b s : State) : State :=
  let o := s.fallbackOrigins
  let g := { o with gate := o.gate.deriveFallback, demands := fallbackDemands }
  State.prompt b false (State.fallbackPumps b g).fallbackLamps

/-- All that follows from an event within the event. In START no block acts (R184). -/
def State.settle (b s : State) : State :=
  match s.node.state with
  | .start => s
  | .fallback => State.settleFallback b s
  | _ => State.settleRunning b s

/-- The end of an event: a RESTART REPLY that has left the queue while restart pending is set begins the restart (R165, R180);
the retained items are copied (R188). -/
def State.finish (s : State) : State :=
  if s.line.replyLeft && s.restartPending then s.copyRetained.beginStart true
  else State.copyRetained { s with line := { s.line with replyLeft := false } }

/-- An event that began in state `b` and has changed its items to `s`, brought to its end. -/
def State.endEvent (b s : State) : State := (State.settle b s).finish

end Sys2Proof.Machine
end

