-- ==== Sys2Proof/Machine/CommandOps.lean ====
section
/-! DEFINITION. The operations of the command handler (chapter 9): the decision of a command by the checks of R169, what an
accepted command changes, the REPLY payloads (R195) with the QUERY pages (section 11.5), and RESTART. -/

namespace Sys2Proof.Machine

open Sys2Proof

/-- The results of a command (R168). -/
inductive CmdResult where
  | done | refusedState | refusedOrigin | badArgument | unknownCommand
deriving DecidableEq, Repr, Inhabited

/-- The result codes (section 11.3). -/
def CmdResult.code : CmdResult → Byte
  | .done => 0
  | .refusedState => 1
  | .refusedOrigin => 2
  | .badArgument => 3
  | .unknownCommand => 4

/-- The channel an argument names, where the profile gives it a class other than UNUSED (R174). -/
def usedChannel (p : Profile) (ch : Byte) : Option (Fin 8) :=
  match channelArg ch with
  | some i => if (p.lamps.get i).cls = .unused then none else some i
  | none => none

/-- The pump an argument names, where the profile declares it present (R173). -/
def presentPump (p : Profile) (n : Byte) : Option PumpNo :=
  match pumpArg n with
  | some k => if (p.pump k).present then some k else none
  | none => none

/-- Check 4 of R169: the arguments fit. -/
def argumentsFit (p : Profile) : MaintCommand → Bool
  | .pumpManual n _ | .pumpAuto n => (presentPump p n).isSome
  | .lampManual ch _ | .lampAuto ch => (usedChannel p ch).isSome
  | .query page => decide (page.toNat ≤ 5)
  | .close | .reopen | .gateStop | .gateRelease | .calibrate | .clear | .dump | .dumpAndZero | .restart => true

/-- Whether an argument names a channel of a signal class (R174). -/
def namesSignal (p : Profile) (ch : Byte) : Bool :=
  match usedChannel p ch with
  | some i => (p.lamps.get i).cls.isSignal
  | none => false

/-- Check 5 of R169: the refusals the commands' own rules give (R17, R172, R174). That of REOPEN is no refusal of the whole:
it is taken, and its result says what remains (R171). -/
def State.refusesCommand (s : State) : MaintCommand → Bool
  | .gateStop | .gateRelease => !s.profile.gate.present
  | .lampManual ch _ | .lampAuto ch => namesSignal s.profile ch
  | .calibrate => !s.level.takesCalibrate s.profile
  | .close | .reopen | .pumpManual _ _ | .pumpAuto _ | .clear | .query _ | .dump | .dumpAndZero | .restart => false

/-- The commands FALLBACK accepts (R170). -/
def acceptedInFallback : MaintCommand → Bool
  | .query _ | .dump | .dumpAndZero | .clear | .restart => true
  | .close | .reopen | .gateStop | .gateRelease | .pumpManual _ _ | .pumpAuto _ | .lampManual _ _ | .lampAuto _
  | .calibrate => false

/-- The decision of a command. -/
inductive Verdict where
  | ignore
  | refuse (code : Byte) (r : CmdResult)
  | act (c : MaintCommand)
deriving DecidableEq, Repr, Inhabited

/-- Checks 3 to 5 of R169 where the node state accepts the command. -/
def State.judge (s : State) (c : MaintCommand) : Verdict :=
  if !argumentsFit s.profile c then .refuse c.code .badArgument
  else if s.refusesCommand c then .refuse c.code .refusedState
  else .act c

/-- The decision by the checks of R169 in their order, with the node states of R170. -/
def State.verdict (s : State) (form : PayloadForm) : Verdict :=
  match s.node.state with
  | .start => .ignore
  | .clash => if form = .command .restart then .act .restart else .ignore
  | .fallback =>
    match form with
    | .unknown code => .refuse code .unknownCommand
    | .badLength code => .refuse code .badArgument
    | .command c => if acceptedInFallback c then s.judge c else .refuse c.code .refusedState
  | .listen | .active | .isolated =>
    match form with
    | .unknown code => .refuse code .unknownCommand
    | .badLength code => .refuse code .badArgument
    | .command c => s.judge c

/-! ### What an accepted command changes -/

/-- REOPEN at the closure controller and the bay picture (R105). -/
def State.takeReopen (s : State) : State :=
  { s with closure := s.closure.withCommand false, picture := s.picture.release }

/-- CLEAR at its five blocks (R176). -/
def State.takeClear (s : State) : State :=
  let p := s.clearPumps
  { p with
    gate := s.gate.clear s.profile.gate
    lamps := s.lamps.clear
    level := { s.level with drift := false }
    closure := s.closure.clear }

/-- PUMP MANUAL at the pump controller (R85). -/
def PumpRec.setManual (duty : Nat) (r : PumpRec) : PumpRec := { r with remote := true, manualDuty := duty }

/-- PUMP AUTO at the pump controller (R85). -/
def PumpRec.setAuto (r : PumpRec) : PumpRec := { r with remote := false }

/-- The local change of an accepted command; QUERY, DUMP, DUMP AND ZERO and RESTART are taken elsewhere. -/
def State.act (c : MaintCommand) (s : State) : State :=
  match c with
  | .close => { s with closure := s.closure.withCommand true }
  | .reopen => s.takeReopen
  | .gateStop => { s with gate := { s.gate with commandHold := true } }
  | .gateRelease => { s with gate := { s.gate with commandHold := false } }
  | .pumpManual n d =>
    match presentPump s.profile n with
    | some k => s.updatePump k (PumpRec.setManual (percentArg d))
    | none => s
  | .pumpAuto n =>
    match presentPump s.profile n with
    | some k => s.updatePump k PumpRec.setAuto
    | none => s
  | .lampManual ch l =>
    match usedChannel s.profile ch with
    | some i => s.updateLamp i fun r => { r with manual := some (percentArg l) }
    | none => s
  | .lampAuto ch =>
    match usedChannel s.profile ch with
    | some i => s.updateLamp i fun r => { r with manual := none }
    | none => s
  | .calibrate => { s with level := s.level.calibrate }
  | .clear => s.takeClear
  | .query _ | .dump | .dumpAndZero | .restart => s

/-! ### QUERY pages (section 11.5) -/

/-- A condition as a byte. -/
def flagByte (b : Bool) : Byte := byte (bitIf b 0)

/-- Page 0, Node. -/
def State.page0 (s : State) : List Byte :=
  [byte s.node.state.code, stationByte s.node.station,
   byte (bitIf (decide (s.allot.source = .generator)) 0 + bitIf s.allot.sagHeld 1 + bitIf s.allot.ownSag 2 +
     bitIf s.allot.overrun 3 + bitIf s.level.sensorFault 4 + bitIf s.level.drift 5 +
     bitIf s.level.collector.underWay 6)] ++
  twoBytes s.allot.usable ++ s.demands.bytes ++ s.allot.shares.bytes ++ twoBytes s.level.level ++
  [byte s.level.stage.num] ++ twoBytes s.level.zeroCode

/-- The nine bytes of a pump on page 1. -/
def PumpRec.pageBytes (r : PumpRec) : List Byte :=
  [byte r.state.code, byte r.cause.code, flagByte r.remote, byte r.manualDuty, byte r.want, byte r.ceiling,
   byte r.duty, byte r.tripCount, byte r.switch.debounced.code]

/-- Page 1, Pumps. -/
def State.page1 (s : State) : List Byte :=
  s.pumps.p1.pageBytes ++ s.pumps.p2.pageBytes ++
  [byte s.pumps.want, flagByte s.pumps.settled, byte s.pumps.lead.num]

/-- The twelve gate bytes of page 2. -/
def Gate.pageBytes (g : Gate) : List Byte :=
  [byte g.state.code, byte (dirCode g.dir), byte (holdCode g.holdCause), flagByte g.commandHold,
   byte (demandCode g.demand), byte (keyCode g.keyDrive g.keyStalled)] ++ twoBytes (g.travel / 100000) ++
  [byte g.retries, byte (match g.backoff with | some t => t / 100000 | none => 255), byte (g.stallRun / 10000),
   byte (jamCode g.jam)]

/-- Page 2, Gate and closure; every gate byte FFh in an inner bay. -/
def State.page2 (s : State) : List Byte :=
  (if s.gateRead then s.gate.pageBytes else List.replicate 12 255) ++
  [byte s.closure.phase.code, byte s.closure.own.code, byte s.unionOrigins.code, flagByte s.closure.blocked] ++
  twoBytes (match s.closure.reopenHold with | some t => t / 1000000 | none => 65535)

/-- The six bytes of a channel on pages 3 and 4. -/
def LampRec.pageBytes (cls : LampClass) (r : LampRec) : List Byte :=
  [byte cls.code, flagByte r.manual.isSome, byte (r.manual.getD 0), byte r.health.code, byte r.filterCount,
   byte r.output]

/-- Pages 3 and 4, Lamps: four channels and the four shared items. -/
def State.lampPage (s : State) (chs : List (Fin 8)) : List Byte :=
  (chs.foldl (fun bs i => bs ++ (s.lamps.recs.get i).pageBytes (s.profile.lamps.get i).cls) []) ++
  [byte s.lamps.band.num, byte s.lamps.common, byte s.lamps.aspect.code, flagByte s.lamps.degraded]

/-- The kind code of the entry in flight, or 0. -/
def Line.flightKind (l : Line) : Byte :=
  match l.flight with
  | none => 0
  | some f =>
    match f.entry with
    | .status => kindStatus
    | .reply _ => kindReply

/-- Page 5, Line and picture. -/
def State.page5 (s : State) : List Byte :=
  [byte s.line.waiting.length, s.line.flightKind, byte s.line.attempts, byte s.line.ownSeq] ++
  stations.map fun i => byte (s.picture.records.get i).presence.code

/-- The items of a page (R177). -/
def State.pageItems (s : State) (page : Byte) : List Byte :=
  match page.toNat with
  | 0 => s.page0
  | 1 => s.page1
  | 2 => s.page2
  | 3 => s.lampPage [0, 1, 2, 3]
  | 4 => s.lampPage [4, 5, 6, 7]
  | _ => s.page5

/-! ### REPLY payloads (R195) -/

/-- The twenty counters as DUMP carries them (R179). -/
def Counters.bytes (c : Counters) : List Byte := c.toList.foldl (fun bs n => bs ++ twoBytes n) []

/-- The data of a pump command's REPLY (R173). -/
def State.pumpData (s : State) (n : Byte) : List Byte :=
  match presentPump s.profile n with
  | some k => [n, flagByte (s.pumps.get k).remote, byte (s.pumps.get k).manualDuty]
  | none => []

/-- The data of a lamp command's REPLY (R174). -/
def State.lampData (s : State) (ch : Byte) : List Byte :=
  match usedChannel s.profile ch with
  | some i =>
    let r := s.lamps.recs.get i
    [ch, flagByte r.manual.isSome, byte (r.manual.getD 0), byte r.output]
  | none => []

/-- The REPLY of an accepted command, from the state as it stands once the command has acted (R168, R195). -/
def State.replyTo (s : State) (c : MaintCommand) : List Byte :=
  match c with
  | .reopen =>
    if s.wanted then [c.code, CmdResult.refusedOrigin.code, byte s.unionOrigins.code]
    else [c.code, CmdResult.done.code]
  | .pumpManual n _ | .pumpAuto n => [c.code, CmdResult.done.code] ++ s.pumpData n
  | .lampManual ch _ | .lampAuto ch => [c.code, CmdResult.done.code] ++ s.lampData ch
  | .query page => [c.code, CmdResult.done.code, page] ++ s.pageItems page
  | .dump | .dumpAndZero => [c.code, CmdResult.done.code] ++ s.counters.bytes
  | .close | .gateStop | .gateRelease | .calibrate | .clear | .restart => [c.code, CmdResult.done.code]

/-- A REPLY handed to the line controller for an addressed command; none for a broadcast one (R168). -/
def State.answer (dest : Addressing) (payload : List Byte) (s : State) : State :=
  match dest with
  | .addressed => s.enqueueReply payload
  | .broadcast => s

/-- RESTART (R180): an addressed one waits for its REPLY to leave the queue; a broadcast one, and any in CLASH, begins the
restart within the event. -/
def State.takeRestart (dest : Addressing) (s : State) : State :=
  let p := { s with restartPending := true }
  if dest = .broadcast ∨ s.node.state = .clash then { p with line := { p.line with replyLeft := true } }
  else p.enqueueReply (p.replyTo .restart)

/-- A command that changes the blocks: its change, what follows from it within the event, then its REPLY (R168, assumption
log 13). -/
def State.carryOut (dest : Addressing) (c : MaintCommand) (b s : State) : State :=
  let t := State.settle b (s.act c)
  t.answer dest (t.replyTo c)

/-- An accepted command taken (R171 to R180). -/
def State.accept (dest : Addressing) (c : MaintCommand) (b s : State) : State :=
  match c with
  | .restart => s.takeRestart dest
  | .dumpAndZero => State.answer dest (s.replyTo c) { s with counters := Counters.zero }
  | .dump | .query _ => s.answer dest (s.replyTo c)
  | .close | .reopen | .gateStop | .gateRelease | .pumpManual _ _ | .pumpAuto _ | .lampManual _ _ | .lampAuto _
  | .calibrate | .clear => State.carryOut dest c b s

/-- A COMMAND that the line controller dispatches to the command handler (R168 to R170), to the end of its event; `b` is the
state the event began in. -/
def State.takeCommand (dest : Addressing) (form : PayloadForm) (b s : State) : State :=
  match s.verdict form with
  | .ignore => s.finish
  | .refuse code r => (s.answer dest [code, r.code]).finish
  | .act c => (State.accept dest c b s).finish

end Sys2Proof.Machine
end

