-- ==== Sys2Proof/Machine/Reception.lean ====
section
/-! DEFINITION. The dispatch of a closed frame (R150 to R153): a STATUS to the bay picture (R25 to R29, R40), a COMMAND to the
command handler. -/

namespace Sys2Proof.Machine

open Sys2Proof

/-- Entry to CLASH (R40, R165, R190, R192): from LISTEN, ACTIVE or ISOLATED; the queue is emptied, the report timer and the
LISTEN timer stop. -/
def State.clashReport (s : State) : State :=
  match s.node.state with
  | .listen | .active | .isolated =>
    { s with node := { s.node with state := .clash, listenTimer := 0 }, line := s.line.flush }
  | .start | .clash | .fallback => s

/-- The report of a valid STATUS from a peer: ISOLATED goes to ACTIVE (R25, R191). -/
def State.peerReport (s : State) : State :=
  match s.node.state with
  | .isolated => { s with node := { s.node with state := .active } }
  | .start | .listen | .active | .clash | .fallback => s

/-- The station of a source character, if it is 1 to 15. -/
def stationOf (src : Byte) : Option (Fin 15) :=
  if h : 1 ≤ src.toNat ∧ src.toNat ≤ 15 then some ⟨src.toNat - 1, by omega⟩ else none

/-- A STATUS from a peer put to the sequence tests and taken into its record (R23, R26 to R28). -/
def State.takePeer (i : Fin 15) (seq : Nat) (rep : Report) (s : State) : State :=
  let r := s.picture.records.get i
  { s with
    picture := s.picture.put i (r.takeStatus seq rep)
    counters := s.counters.raiseIf .statusGaps (r.gapAt seq) }

/-- A valid STATUS at the bay picture (R25): taken in LISTEN, ACTIVE, ISOLATED and CLASH; the own number is a clash (R40). -/
def State.takeStatus (src : Byte) (seq : Nat) (payload : List Byte) (s : State) : State :=
  if s.node.state.running then
    match stationOf src with
    | some i =>
      if i = s.node.station then s.clashReport else (s.takePeer i seq (reportOf payload)).peerReport
    | none => s
  else s

/-- Whether a COMMAND is for this node, and how it names it (R153, R168). -/
def State.addressing (s : State) (dest : Byte) : Option Addressing :=
  if dest.toNat = 255 then some .broadcast
  else if dest = stationByte s.node.station then some .addressed
  else none

/-- A valid frame dispatched, to the end of its event (R153); `b` is the state the event began in. -/
def State.dispatch (b : State) (kind src dest seq : Byte) (payload : List Byte) (s : State) : State :=
  if kind = kindStatus then State.endEvent b (s.takeStatus src seq.toNat payload)
  else if kind = kindCommand then
    match s.addressing dest with
    | some a => State.takeCommand a (payloadForm payload) b s
    | none => s.finish
  else s.finish

/-- An open frame closed: within the echo window it is discarded (R151); else it is validated, counted and dispatched
(R152, R153). -/
def State.closeFrame (f : RxFrame) (s : State) : State :=
  let c := { s with line := { s.line with rx := none, echo := false } }
  if s.line.echo then c.finish
  else
    match validate f with
    | .formatError => (c.count .formatErrors).finish
    | .crcError => (c.count .crcErrors).finish
    | .good kind src dest seq payload =>
      State.dispatch s kind src dest seq payload (c.count .goodFrames).hearFrame

end Sys2Proof.Machine
end

