-- ==== Sys2Proof/Machine/ClosureEvents.lean ====
section
/-! DEFINITION. The commands of the closure controller: OUTSIDE_FILTER_CHANGE, WARN_TIMER_EXPIRY, CLEARANCE_TIMER_EXPIRY,
PRESENCE_CLEAR, MAX_CLEAR_EXPIRY, REOPEN_HOLD_EXPIRY. -/

namespace Sys2Proof.Machine

open Sys2Proof

/-- OUTSIDE_FILTER_CHANGE (R90), in a bay with a gate: the detector stands at the other level for what its 3 s still
lack. -/
def State.outsideChange (active : Bool) (s : State) : State :=
  if s.node.state.running ∧ s.profile.gate.present ∧ active ≠ s.closure.outside then
    let d := timeToFilter (ms 100) (sec 3) s.node.readClock s.closure.outsideHeld
    let t := State.elapse d { s with pins := { s.pins with outsideWater := active } }
    State.endEvent t { t with closure := { t.closure with outside := active, outsideHeld := none } }
  else s

/-- WARN_TIMER_EXPIRY (R95), in WARNING. -/
def State.warnExpiry (s : State) : State :=
  if s.node.state.running ∧ s.closure.phase = .warning then
    let t := s.elapse (sec s.profile.warnTime - s.closure.warnTimer)
    State.endEvent t { t with closure := t.closure.toStopping }
  else s

/-- CLEARANCE_TIMER_EXPIRY (R96), in STOPPING. -/
def State.clearanceExpiry (s : State) : State :=
  if s.node.state.running ∧ s.closure.phase = .stopping then
    let t := s.elapse (sec s.profile.clearanceTime - s.closure.clearanceTimer)
    State.endEvent t { t with closure := t.closure.toClearing t.pins.loopClear }
  else s

/-- PRESENCE_CLEAR (R97), in CLEARING: the loop reads clear for what its 3 s still lack. -/
def State.presenceEvent (s : State) : State :=
  if s.node.state.running ∧ s.closure.phase = .clearing then
    let d := timeToRun (ms 100) (sec 3) s.closure.loopClock s.closure.loopRead s.closure.presenceRun
    let t := State.elapse d { s with pins := { s.pins with loopClear := true } }
    State.endEvent t { t with closure := t.closure.toSealing t.profile.gate.present }
  else s

/-- MAX_CLEAR_EXPIRY (R98), in CLEARING with BLOCKED clear: the flag is set and the timer holds. -/
def State.maxClear (s : State) : State :=
  if s.node.state.running ∧ s.closure.phase = .clearing ∧ s.closure.blocked = false then
    let t := s.elapse (sec s.profile.maxClearTime - s.closure.maxClearTimer)
    State.endEvent t { t with closure := { t.closure with blocked := true } }
  else s

/-- REOPEN_HOLD_EXPIRY (R102), where the timer runs. -/
def State.reopenExpiry (s : State) : State :=
  if s.node.state.running ∧ s.closure.phase.holdable ∧ s.wanted = false then
    match s.closure.reopenHold with
    | none => s
    | some k =>
      let t := s.elapse (sec s.profile.reopenHold - k)
      State.endEvent t { t with closure := t.closure.toReopening }
  else s

/-- OUTSIDE_FILTER_CHANGE. -/
def execOutsideFilterChange (active : Bool) (s : State) : Host.Outcome State Fault Refusal :=
  .next (s.outsideChange active)

/-- WARN_TIMER_EXPIRY. -/
def execWarnTimerExpiry (s : State) : Host.Outcome State Fault Refusal := .next s.warnExpiry

/-- CLEARANCE_TIMER_EXPIRY. -/
def execClearanceTimerExpiry (s : State) : Host.Outcome State Fault Refusal := .next s.clearanceExpiry

/-- PRESENCE_CLEAR. -/
def execPresenceClear (s : State) : Host.Outcome State Fault Refusal := .next s.presenceEvent

/-- MAX_CLEAR_EXPIRY. -/
def execMaxClearExpiry (s : State) : Host.Outcome State Fault Refusal := .next s.maxClear

/-- REOPEN_HOLD_EXPIRY. -/
def execReopenHoldExpiry (s : State) : Host.Outcome State Fault Refusal := .next s.reopenExpiry

end Sys2Proof.Machine
end

