-- ==== Sys2Proof/Machine/Commands.lean ====
section
/-! DEFINITION. The fourteen maintenance commands as the command handler takes them: each row is a COMMAND dispatched to it
(R168), addressed or broadcast, with its argument characters (assumption log 8). -/

namespace Sys2Proof.Machine

open Sys2Proof

/-- A COMMAND taken by the command handler as an event of its own (R168). -/
def State.maintain (dest : Addressing) (c : MaintCommand) (s : State) : State :=
  State.takeCommand dest (.command c) s s

/-- CLOSE (R91, R171). -/
def execClose (dest : Addressing) (s : State) : Host.Outcome State Fault Refusal :=
  .next (s.maintain dest .close)

/-- REOPEN (R105, R171). -/
def execReopen (dest : Addressing) (s : State) : Host.Outcome State Fault Refusal :=
  .next (s.maintain dest .reopen)

/-- GATE_STOP (R125, R172). -/
def execGateStop (dest : Addressing) (s : State) : Host.Outcome State Fault Refusal :=
  .next (s.maintain dest .gateStop)

/-- GATE_RELEASE (R126, R172). -/
def execGateRelease (dest : Addressing) (s : State) : Host.Outcome State Fault Refusal :=
  .next (s.maintain dest .gateRelease)

/-- PUMP_MANUAL (R85, R173). -/
def execPumpManual (dest : Addressing) (n duty : Byte) (s : State) : Host.Outcome State Fault Refusal :=
  .next (s.maintain dest (.pumpManual n duty))

/-- PUMP_AUTO (R85, R173). -/
def execPumpAuto (dest : Addressing) (n : Byte) (s : State) : Host.Outcome State Fault Refusal :=
  .next (s.maintain dest (.pumpAuto n))

/-- LAMP_MANUAL (R144, R174). -/
def execLampManual (dest : Addressing) (ch level : Byte) (s : State) : Host.Outcome State Fault Refusal :=
  .next (s.maintain dest (.lampManual ch level))

/-- LAMP_AUTO (R144, R174). -/
def execLampAuto (dest : Addressing) (ch : Byte) (s : State) : Host.Outcome State Fault Refusal :=
  .next (s.maintain dest (.lampAuto ch))

/-- CALIBRATE (R17, R175). -/
def execCalibrate (dest : Addressing) (s : State) : Host.Outcome State Fault Refusal :=
  .next (s.maintain dest .calibrate)

/-- CLEAR (R176). -/
def execClear (dest : Addressing) (s : State) : Host.Outcome State Fault Refusal :=
  .next (s.maintain dest .clear)

/-- QUERY (R177). -/
def execQuery (dest : Addressing) (page : Byte) (s : State) : Host.Outcome State Fault Refusal :=
  .next (s.maintain dest (.query page))

/-- DUMP (R179). -/
def execDump (dest : Addressing) (s : State) : Host.Outcome State Fault Refusal :=
  .next (s.maintain dest .dump)

/-- DUMP_AND_ZERO (R179). -/
def execDumpAndZero (dest : Addressing) (s : State) : Host.Outcome State Fault Refusal :=
  .next (s.maintain dest .dumpAndZero)

/-- RESTART (R180). -/
def execRestart (dest : Addressing) (s : State) : Host.Outcome State Fault Refusal :=
  .next (s.maintain dest .restart)

end Sys2Proof.Machine
end

