-- ==== Sys2Proof/Machine/FeederEvents.lean ====
section
/-! DEFINITION. The commands of the allotment unit's inputs: SUPPLY_SOURCE_CHANGE, OWN_SAG_SET, OWN_SAG_CLEAR,
SAG_HOLD_END. -/

namespace Sys2Proof.Machine

open Sys2Proof

/-- SUPPLY_SOURCE_CHANGE (R45): the GEN input stands at the other level for what its 100 ms still lack. -/
def State.supplyChange (source : Supply) (s : State) : State :=
  if s.node.state ≠ .start ∧ source ≠ s.allot.source then
    let d := timeToFilter (ms 10) (ms 100) s.node.readClock s.allot.genHeld
    let t := State.elapse d { s with pins := { s.pins with source := source } }
    State.endEvent t { t with allot := { t.allot with source := source, genHeld := none } }
  else s

/-- The feeder-sense code standing until its run reaches 200 ms, where the code last converted already counts it or not
(R46). -/
def State.atSenseRun (code : Nat) (counts : Bool) (run : Time) (s : State) : State :=
  State.elapse (timeToRun (ms 10) (ms 200) s.node.readClock counts run)
    { s with pins := { s.pins with feederSense := code } }

/-- OWN_SAG_SET (R46): the code stands below the threshold until the undervoltage run reaches 200 ms. -/
def State.sagSet (code : Nat) (s : State) : State :=
  if s.node.state.running ∧ s.allot.ownSag = false ∧ code < s.profile.sagThreshold then
    let t := s.atSenseRun code (decide (s.allot.sense < s.profile.sagThreshold)) s.allot.underRun
    State.endEvent t { t with allot := { t.allot with ownSag := true } }
  else s

/-- OWN_SAG_CLEAR (R46): the code stands at or above the threshold until the recovery run reaches 200 ms. -/
def State.sagClear (code : Nat) (s : State) : State :=
  if s.node.state.running ∧ s.allot.ownSag = true ∧ s.profile.sagThreshold ≤ code then
    let t := s.atSenseRun code (decide (s.profile.sagThreshold ≤ s.allot.sense)) s.allot.recoverRun
    State.endEvent t { t with allot := { t.allot with ownSag := false } }
  else s

/-- SAG_HOLD_END (R47), where the timer runs and sag is not seen. -/
def State.sagHoldEnd (s : State) : State :=
  if s.node.state.running ∧ s.sagSeen = false then
    match s.allot.sagHold with
    | none => s
    | some k =>
      let t := s.elapse (sec s.profile.sagHold - k)
      State.endEvent t { t with allot := { t.allot with sagHold := none } }
  else s

/-- SUPPLY_SOURCE_CHANGE. -/
def execSupplySourceChange (source : Supply) (s : State) : Host.Outcome State Fault Refusal :=
  .next (s.supplyChange source)

/-- OWN_SAG_SET. -/
def execOwnSagSet (code : Nat) (s : State) : Host.Outcome State Fault Refusal := .next (s.sagSet code)

/-- OWN_SAG_CLEAR. -/
def execOwnSagClear (code : Nat) (s : State) : Host.Outcome State Fault Refusal := .next (s.sagClear code)

/-- SAG_HOLD_END. -/
def execSagHoldEnd (s : State) : Host.Outcome State Fault Refusal := .next s.sagHoldEnd

end Sys2Proof.Machine
end

