-- ==== Sys2Proof/Machine/GateEvents.lean ====
section
/-! DEFINITION. The commands of the gate controller's inputs: LIMIT_CHANGE, KEY_TAKEOVER, KEY_RELEASE, GATE_STALL,
BACKOFF_END, TRAVEL_MAXIMUM. -/

namespace Sys2Proof.Machine

open Sys2Proof

/-- The debounced level of a limit and its agreement count. -/
def Gate.limit (g : Gate) : LimitSwitch → LimitInput
  | .openLimit => g.openLimit
  | .closedLimit => g.closedLimit

/-- LIMIT_CHANGE (R113, R120): the limit stands at the other level until its third equal read. In FALLBACK the state is
derived from the limits alone (R129). A motion that has not travelled by that read begins in its instant (R103, assumption
log 47). -/
def State.limitEvent (w : LimitSwitch) (active : Bool) (s : State) : State :=
  if s.gateRead ∧ active ≠ (s.gate.limit w).active then
    let d := timeToReads (ms 10) (3 - (s.gate.limit w).count) s.node.readClock
    let t := State.elapse d { s with pins := s.pins.withLimit w active }
    if s.node.state = .fallback then State.endEvent t { t with gate := t.gate.withLimit w active }
    else State.endEvent t (t.putGate (t.gate.changeLimit (decide (t.gate.travel = 0)) w active))
  else s

/-- The key pins standing at a position until its third equal read (R113). -/
def State.atKeyRead (k : KeyPos) (s : State) : State :=
  let d := timeToReads (ms 100) (readsLeft s.gate.key.candidate s.gate.key.count k) s.node.readClock
  State.elapse d { s with pins := { s.pins with key := k } }

/-- KEY_TAKEOVER (R115, R129): the key reaches OPEN or CLOSE. -/
def State.keyTakeover (d : Dir) (s : State) : State :=
  if s.gateRead ∧ s.gate.key.debounced ≠ .turned d then
    let t := s.atKeyRead (.turned d)
    State.endEvent t { t with gate := t.gate.keyTake t.profile.gate d }
  else s

/-- KEY_RELEASE (R116, R129): the key returns to AUTO. -/
def State.keyRelease (s : State) : State :=
  if s.gateRead ∧ s.gate.key.debounced ≠ .auto then
    let t := s.atKeyRead .auto
    State.endEvent t { t with gate := t.gate.keyFree }
  else s

/-- GATE_STALL (R123): the code stands above the stall level until the stall run reaches the deglitch. -/
def State.gateStall (code : Nat) (s : State) : State :=
  if s.node.state.running ∧ s.profile.gate.present ∧ s.gate.motor.isSome ∧ s.profile.gate.stallLevel < code then
    let d := timeToRun (ms 10) (ms s.profile.gate.stallDeglitch) s.node.readClock
      (decide (s.profile.gate.stallLevel < s.gate.code)) s.gate.stallRun
    let t := State.elapse d
      { s with pins := { s.pins with gateCurrent := code } }
    State.endEvent t (State.count { t with gate := t.gate.stall } .gateStalls)
  else s

/-- BACKOFF_END (R123), in a back-off: the motor drives toward the target again. -/
def State.backoffEnd (s : State) : State :=
  if s.node.state.running ∧ s.profile.gate.present then
    match s.gate.backoff with
    | none => s
    | some k =>
      let t := s.elapse (sec 1 - k)
      State.endEvent t { t with gate := { t.gate with backoff := none } }
  else s

/-- TRAVEL_MAXIMUM (R121), where travel counts: a jam with cause TRAVEL. -/
def State.travelMaximum (s : State) : State :=
  if s.node.state.running ∧ s.profile.gate.present ∧ s.gate.travelling then
    let t := s.elapse (sec s.profile.gate.travelMax - s.gate.travel)
    State.endEvent t { t with gate := { t.gate with jam := some .travel } }
  else s

/-- LIMIT_CHANGE. -/
def execLimitChange (w : LimitSwitch) (active : Bool) (s : State) : Host.Outcome State Fault Refusal :=
  .next (s.limitEvent w active)

/-- KEY_TAKEOVER. -/
def execKeyTakeover (d : Dir) (s : State) : Host.Outcome State Fault Refusal := .next (s.keyTakeover d)

/-- KEY_RELEASE. -/
def execKeyRelease (s : State) : Host.Outcome State Fault Refusal := .next s.keyRelease

/-- GATE_STALL. -/
def execGateStall (code : Nat) (s : State) : Host.Outcome State Fault Refusal := .next (s.gateStall code)

/-- BACKOFF_END. -/
def execBackoffEnd (s : State) : Host.Outcome State Fault Refusal := .next s.backoffEnd

/-- TRAVEL_MAXIMUM. -/
def execTravelMaximum (s : State) : Host.Outcome State Fault Refusal := .next s.travelMaximum

end Sys2Proof.Machine
end

