-- ==== Sys2Proof/Machine/LampEvents.lean ====
section
/-! DEFINITION. The commands of the lamp timer: LAMP_TICK, and LAMP_FAILED and LAMP_SHORTED, each the whole tick at which
its event comes about (assumption log 6). -/

namespace Sys2Proof.Machine

open Sys2Proof

/-- The state at the moment the lamp timer expires (R132). -/
def State.atTick (s : State) : State := s.elapse (ms 100 - s.lamps.lampTimer)

/-- One whole lamp tick with what follows from it (R132). In START the timer is stopped (R146). -/
def State.tickEvent (r : LampReads) (s : State) : State :=
  if s.node.state = .start then s else State.endEvent s.atTick (s.atTick.takeTick r)

/-- Whether a lamp takes a health at a tick (R141 to R143). -/
def State.lampBecomes (h : LampHealth) (r : LampReads) (s : State) : Bool :=
  let t := s.atTick.takeTick r
  channels.any fun i => decide ((s.lamps.recs.get i).health ≠ h) && decide ((t.lamps.recs.get i).health = h)

/-- A tick taken where its event comes about at it; else nothing. -/
def State.tickWhere (occurs : Bool) (r : LampReads) (s : State) : State := if occurs then s.tickEvent r else s

/-- LAMP_TICK. -/
def execLampTick (r : LampReads) (s : State) : Host.Outcome State Fault Refusal := .next (s.tickEvent r)

/-- LAMP_FAILED (R141). -/
def execLampFailed (r : LampReads) (s : State) : Host.Outcome State Fault Refusal :=
  .next (s.tickWhere (s.lampBecomes .failed r) r)

/-- LAMP_SHORTED (R142). -/
def execLampShorted (r : LampReads) (s : State) : Host.Outcome State Fault Refusal :=
  .next (s.tickWhere (s.lampBecomes .shorted r) r)

end Sys2Proof.Machine
end

