-- ==== Sys2Proof/Machine/LineEvents.lean ====
section
/-! DEFINITION. The commands of the line: FRAME_CLOSE, LINE_CHARACTER, ATTEMPT_START, RETRY_START, COLLISION,
ATTEMPT_COMPLETE, REPORT_TIMER_EXPIRY. -/

namespace Sys2Proof.Machine

open Sys2Proof

/-- FRAME_CLOSE (R150): an open frame, the node not transmitting, closes when the silence passes 1.5 character times. -/
def State.frameClose (s : State) : State :=
  if s.node.state ≠ .start ∧ s.line.transmitting = false then
    match s.line.rx with
    | none => s
    | some f => (s.elapse (closeSilence - s.line.silence)).closeFrame f
  else s

/-- A frame whose 1.5 character times have passed closes before a later character is taken (R150, assumption log 23). -/
def State.closeOverdue (s : State) : State :=
  if s.line.transmitting = false ∧ closeSilence < s.line.silence then
    match s.line.rx with
    | none => s
    | some f => s.closeFrame f
  else s

/-- A character of another station starts (R149, R150). -/
def State.hearChar (value : Byte) (stopOk : Bool) (s : State) : State :=
  if s.node.state = .start then s
  else
    { s with
      line := { s.line with silence := 0, lastChar := .other, rx := addChar s.line.rx value stopOk } }

/-- LINE_CHARACTER of another station, after the time that passed before it. In START none is kept (R153). -/
def State.otherChar (wait : Time) (value : Byte) (stopOk : Bool) (s : State) : State :=
  if s.node.state = .start then s.elapse wait else ((s.elapse wait).closeOverdue).hearChar value stopOk

/-- LINE_CHARACTER of the node's own: the next character of the frame in transmission starts. -/
def State.ownChar (s : State) : State :=
  match s.line.flight with
  | some f =>
    if s.line.transmitting ∧ f.sent < (f.frame.getD []).length then
      (s.elapse (charTime - s.line.sinceOwn)).sendChar f
    else s
  | none => s

/-- LINE_CHARACTER (R149, R150, R194). -/
def State.lineChar (c : LineChar) (s : State) : State :=
  match c with
  | .own => s.ownChar
  | .other wait w => s.otherChar wait (wireByte w) (wireStop w)

/-- Whether an attempt may begin: the node transmits in this state and no frame is open on the line. -/
def State.mayBegin (s : State) : Bool := s.node.state.transmits && s.line.rx.isNone

/-- ATTEMPT_START (R159): the entry in flight waits in DEFER, and the silence reaches 4 character times. -/
def State.attemptStart (s : State) : State :=
  match s.line.flight with
  | some f =>
    if s.mayBegin ∧ s.line.access = .defer then (s.elapse (deferSilence - s.line.silence)).beginAttempt f else s
  | none => s

/-- RETRY_START (R161): the entry in flight waits in BACKOFF, and the silence reaches 4 + 4 × k character times. -/
def State.retryStart (s : State) : State :=
  match s.line.flight, s.line.access with
  | some f, .backoff k =>
    if s.mayBegin then (s.elapse (backoffSilence k - s.line.silence)).beginAttempt f else s
  | _, _ => s

/-- Whether a character read back is a collision (R160). -/
def Flight.collides (f : Flight) (readBack : Byte) (stopOk : Bool) : Bool :=
  decide (readBack ≠ f.lastSent) || !stopOk

/-- COLLISION (R160 to R163), where the node transmits and the character reads back differently: the node finishes that
character. -/
def State.collision (readBack : Byte) (stopOk : Bool) (s : State) : State :=
  match s.line.flight with
  | some f =>
    if s.line.transmitting ∧ f.collides readBack stopOk then
      ((s.elapse (charTime - s.line.sinceOwn)).collide f).finish
    else s
  | none => s

/-- The rest of the frame sent, one character after another, to the end of its last character (section 8.1). -/
def State.toFrameEnd (f : Flight) (s : State) : State :=
  let frame := f.frame.getD []
  let n := frame.length - f.sent
  let t := if n = 0 then s else State.sendRest f frame (s.elapse (n * charTime - s.line.sinceOwn))
  t.elapse (charTime - t.line.sinceOwn)

/-- ATTEMPT_COMPLETE (R164), where the node transmits: the rest of the frame is sent and read back without a collision. -/
def State.attemptComplete (s : State) : State :=
  match s.line.flight with
  | some f => if s.line.transmitting then ((s.toFrameEnd f).completeAttempt f).finish else s
  | none => s

/-- REPORT_TIMER_EXPIRY (R157), where the report timer runs. -/
def State.reportExpiry (s : State) : State :=
  if s.node.state.transmits then
    ((s.elapse (ms s.ownPeriod - s.line.reportTimer)).requestStatus).finish
  else s

/-- FRAME_CLOSE. -/
def execFrameClose (s : State) : Host.Outcome State Fault Refusal := .next s.frameClose

/-- LINE_CHARACTER. -/
def execLineCharacter (c : LineChar) (s : State) : Host.Outcome State Fault Refusal := .next (s.lineChar c)

/-- ATTEMPT_START. -/
def execAttemptStart (s : State) : Host.Outcome State Fault Refusal := .next s.attemptStart

/-- RETRY_START. -/
def execRetryStart (s : State) : Host.Outcome State Fault Refusal := .next s.retryStart

/-- COLLISION. -/
def execCollision (readBack : Byte) (stopOk : Bool) (s : State) : Host.Outcome State Fault Refusal :=
  .next (s.collision readBack stopOk)

/-- ATTEMPT_COMPLETE. -/
def execAttemptComplete (s : State) : Host.Outcome State Fault Refusal := .next s.attemptComplete

/-- REPORT_TIMER_EXPIRY. -/
def execReportTimerExpiry (s : State) : Host.Outcome State Fault Refusal := .next s.reportExpiry

end Sys2Proof.Machine
end

