-- ==== Sys2Proof/Machine/PictureEvents.lean ====
section
/-! DEFINITION. The commands of the bay picture and the node state: RECORD_STALE, RECORD_GONE, LINE_SILENCE_EXPIRY,
LISTEN_TIMER_EXPIRY. -/

namespace Sys2Proof.Machine

open Sys2Proof

/-- The record of a station. -/
def State.record (s : State) (st : Fin 15) : StationRecord := s.picture.records.get st

/-- The state at the moment a record's heard timer reaches a multiple of its declared period. -/
def State.atHeard (st : Fin 15) (times : Nat) (s : State) : State :=
  s.elapse (ms (times * (s.record st).report.period) - (s.record st).heard)

/-- RECORD_STALE (R30), where the record is that of a peer and FRESH. -/
def State.recordStale (st : Fin 15) (s : State) : State :=
  if s.node.state.running ∧ st ≠ s.node.station ∧ (s.record st).presence = .fresh then
    let t := s.atHeard st 3
    State.endEvent t { t with picture := t.picture.put st (t.record st).toStale }
  else s

/-- RECORD_GONE (R31), where the record is that of a peer and STALE. -/
def State.recordGone (st : Fin 15) (s : State) : State :=
  if s.node.state.running ∧ st ≠ s.node.station ∧ (s.record st).presence = .stale then
    let t := s.atHeard st 10
    State.endEvent t { t with picture := t.picture.put st (t.record st).toGone }
  else s

/-- A line-silence expiry report at the node state machine: ACTIVE goes to ISOLATED (R39, R191). -/
def State.silenceReport (s : State) : State :=
  match s.node.state with
  | .active => { s with node := { s.node with state := .isolated } }
  | .start | .listen | .isolated | .clash | .fallback => s

/-- Whether a line-silence expiry can come about (R39): the timer runs, has not expired, and the node is past LISTEN. -/
def State.silenceMayExpire (s : State) : Bool :=
  s.node.state.running && decide (s.node.state ≠ .listen) && !s.picture.expired

/-- LINE_SILENCE_EXPIRY (R38, R39, R191). -/
def State.lineSilence (s : State) : State :=
  if s.silenceMayExpire then
    let t := s.elapse (ms (10 * s.profile.reportPeriod) - s.picture.silence)
    State.endEvent t (State.silenceReport { t with picture := { t.picture with expired := true } })
  else s

/-- LISTEN_TIMER_EXPIRY (R190), in LISTEN. -/
def State.listenExpiry (s : State) : State :=
  if s.node.state = .listen then
    let t := s.elapse (ms (4 * s.profile.reportPeriod) - s.node.listenTimer)
    State.endEvent t { t with node := { t.node with state := .active, listenTimer := 0 } }
  else s

/-- RECORD_STALE. -/
def execRecordStale (st : Fin 15) (s : State) : Host.Outcome State Fault Refusal := .next (s.recordStale st)

/-- RECORD_GONE. -/
def execRecordGone (st : Fin 15) (s : State) : Host.Outcome State Fault Refusal := .next (s.recordGone st)

/-- LINE_SILENCE_EXPIRY. -/
def execLineSilenceExpiry (s : State) : Host.Outcome State Fault Refusal := .next s.lineSilence

/-- LISTEN_TIMER_EXPIRY. -/
def execListenTimerExpiry (s : State) : Host.Outcome State Fault Refusal := .next s.listenExpiry

end Sys2Proof.Machine
end

