-- ==== Sys2Proof/Machine/PumpEvents.lean ====
section
/-! DEFINITION. The commands of the pump controller: LOOP_STEP, SWITCH_CHANGE, REST_TIMER_EXPIRY, OVERCURRENT_TRIP,
DRYRUN_TRIP, RETRY_EXPIRY, DRY_STAGE_CLEAR, RUN_MINUTE. -/

namespace Sys2Proof.Machine

open Sys2Proof

/-- The pump's record. -/
def State.pump (s : State) (n : PumpNo) : PumpRec := s.pumps.get n

/-- LOOP_STEP (R67 to R70). -/
def State.loopEvent (s : State) : State :=
  if s.node.state.running then
    let t := s.elapse (sec 1 - s.pumps.loopTimer)
    let u := { t with pumps := { t.pumps with loopTimer := 0 } }
    State.endEvent t u.stepLoop
  else s

/-- Whether a pump's switch is read (R62, R65, R87): that of a present pump, and both in FALLBACK. -/
def State.switchRead (s : State) (n : PumpNo) : Bool :=
  match s.node.state with
  | .start => false
  | .fallback => true
  | _ => (s.profile.pump n).present

/-- SWITCH_CHANGE (R65): the switch stands at another position until its third equal read. -/
def State.switchEvent (n : PumpNo) (pos : SwitchPos) (s : State) : State :=
  let sw := (s.pump n).switch
  if s.switchRead n ∧ pos ≠ .unsettled ∧ pos ≠ sw.debounced then
    let d := timeToReads (ms 100) (readsLeft sw.candidate sw.count pos) s.node.readClock
    let t := State.elapse d { s with pins := s.pins.withSwitch n pos }
    State.endEvent t (t.updatePump n fun r => { r with switch := ⟨pos, some pos, 3⟩ })
  else s

/-- REST_TIMER_EXPIRY (R78), where the pump is present and its rest timer still counts. -/
def State.restExpiry (n : PumpNo) (s : State) : State :=
  if s.node.state.running ∧ (s.profile.pump n).present then
    match (s.pump n).rest with
    | .done => s
    | .counting k =>
      let t := s.elapse (sec (s.profile.pump n).restTime - k)
      State.endEvent t (t.updatePump n fun r => { r with rest := .done })
  else s

/-- A trip taken at the end of its supervision run (R79 to R82). -/
def State.tripAt (n : PumpNo) (c : TripCause) (d : Time) (s : State) : State :=
  let t := s.elapse d
  State.endEvent t ((t.updatePump n (PumpRec.trip (s.profile.pump n) c)).count .pumpTrips)

/-- OVERCURRENT_TRIP (R79): the code stands above the trip level until the run reaches the trip deglitch. -/
def State.overcurrent (n : PumpNo) (code : Nat) (s : State) : State :=
  if s.node.state.running ∧ 0 < (s.pump n).duty ∧ (s.profile.pump n).tripLevel < code then
    State.tripAt n .overcurrent (ms (s.profile.pump n).tripDeglitch - (s.pump n).overRun)
      { s with pins := s.pins.withPumpCurrent n code }
  else s

/-- DRYRUN_TRIP (R80): the code stands below the dry-run level until the run reaches the dry delay. -/
def State.dryrun (n : PumpNo) (code : Nat) (s : State) : State :=
  if s.node.state.running ∧ (s.pump n).state = .running ∧ code < (s.profile.pump n).dryLevel then
    State.tripAt n .dryrun (sec (s.profile.pump n).dryDelay - (s.pump n).dryRun)
      { s with pins := s.pins.withPumpCurrent n code }
  else s

/-- RETRY_EXPIRY (R82), where the retry timer runs. -/
def State.retryExpiry (n : PumpNo) (s : State) : State :=
  if s.node.state.running then
    match (s.pump n).retry with
    | none => s
    | some k =>
      let t := s.elapse (sec (s.profile.pump n).retryTime - k)
      State.endEvent t (t.updatePump n PumpRec.untrip)
  else s

/-- The trip counts of both pumps cleared and the timer held (R83). -/
def Pumps.dryClear (u : Pumps) : Pumps :=
  { u with p1 := { u.p1 with tripCount := 0 }, p2 := { u.p2 with tripCount := 0 }, dryStage := .held }

/-- DRY_STAGE_CLEAR (R83), where the timer runs. -/
def State.dryStageClear (s : State) : State :=
  if s.node.state.running then
    match s.pumps.dryStage with
    | .counting k =>
      let t := s.elapse (tenMinutes - k)
      State.endEvent t { t with pumps := t.pumps.dryClear }
    | .stopped | .held => s
  else s

/-- RUN_MINUTE (R86), where the pump runs or its accumulator holds a whole minute. -/
def State.runMinute (n : PumpNo) (s : State) : State :=
  if s.node.state ≠ .start ∧ (0 < (s.pump n).duty ∨ sec 60 ≤ (s.pump n).runAcc) then
    let t := s.elapse (sec 60 - (s.pump n).runAcc)
    State.endEvent t ((t.updatePump n fun r => { r with runAcc := r.runAcc - sec 60 }).count n.minutes)
  else s

/-- LOOP_STEP. -/
def execLoopStep (s : State) : Host.Outcome State Fault Refusal := .next s.loopEvent

/-- SWITCH_CHANGE. -/
def execSwitchChange (n : PumpNo) (pos : SwitchPos) (s : State) : Host.Outcome State Fault Refusal :=
  .next (s.switchEvent n pos)

/-- REST_TIMER_EXPIRY. -/
def execRestTimerExpiry (n : PumpNo) (s : State) : Host.Outcome State Fault Refusal := .next (s.restExpiry n)

/-- OVERCURRENT_TRIP. -/
def execOvercurrentTrip (n : PumpNo) (code : Nat) (s : State) : Host.Outcome State Fault Refusal :=
  .next (s.overcurrent n code)

/-- DRYRUN_TRIP. -/
def execDryrunTrip (n : PumpNo) (code : Nat) (s : State) : Host.Outcome State Fault Refusal :=
  .next (s.dryrun n code)

/-- RETRY_EXPIRY. -/
def execRetryExpiry (n : PumpNo) (s : State) : Host.Outcome State Fault Refusal := .next (s.retryExpiry n)

/-- DRY_STAGE_CLEAR. -/
def execDryStageClear (s : State) : Host.Outcome State Fault Refusal := .next s.dryStageClear

/-- RUN_MINUTE. -/
def execRunMinute (n : PumpNo) (s : State) : Host.Outcome State Fault Refusal := .next (s.runMinute n)

end Sys2Proof.Machine
end

