-- ==== Sys2Proof/Machine/Sampling.lean ====
section
/-! DEFINITION. The commands of the level monitor: SAMPLE, and SENSOR_FAULT_SET, SENSOR_FAULT_CLEAR, FLOAT_CHANGE and
CALIBRATION_COMPLETE, each the whole sample at which its event comes about (assumption log 6). -/

namespace Sys2Proof.Machine

open Sys2Proof

/-- The state at the moment the sample timer expires (R1). -/
def State.atSample (s : State) : State := s.elapse (ms 100 - s.level.sampleTimer)

/-- One whole sample with what follows from it (R1, R13). In START none is taken (R20). -/
def State.sampleEvent (r : SampleReads) (s : State) : State :=
  if s.node.state = .start then s else State.endEvent s.atSample (s.atSample.takeSample r)

/-- Whether SENSOR FAULT is set at a sample (R6). -/
def State.faultSets (r : SampleReads) (s : State) : Bool :=
  !s.level.sensorFault && (s.atSample.takeSample r).level.sensorFault

/-- Whether SENSOR FAULT clears at a sample (R7). -/
def State.faultClears (r : SampleReads) (s : State) : Bool :=
  s.level.sensorFault && !(s.atSample.takeSample r).level.sensorFault

/-- Whether the debounced state of a float changes at a sample (R8). -/
def State.floatChanges (r : SampleReads) (s : State) : Bool :=
  let t := s.atSample.takeSample r
  decide (t.level.dry.debounced ≠ s.level.dry.debounced ∨ t.level.high.debounced ≠ s.level.high.debounced)

/-- Whether a collection completes at a sample (R18, R19). -/
def State.calibrationCompletes (r : SampleReads) (s : State) : Bool :=
  s.node.state.running && decide ((s.atSample.level.sample s.profile r).2 ≠ .none)

/-- A sample taken where its event comes about at it; else nothing. -/
def State.sampleWhere (occurs : Bool) (r : SampleReads) (s : State) : State := if occurs then s.sampleEvent r else s

/-- SAMPLE. -/
def execSample (r : SampleReads) (s : State) : Host.Outcome State Fault Refusal := .next (s.sampleEvent r)

/-- SENSOR_FAULT_SET. -/
def execSensorFaultSet (r : SampleReads) (s : State) : Host.Outcome State Fault Refusal :=
  .next (s.sampleWhere (s.faultSets r) r)

/-- SENSOR_FAULT_CLEAR. -/
def execSensorFaultClear (r : SampleReads) (s : State) : Host.Outcome State Fault Refusal :=
  .next (s.sampleWhere (s.faultClears r) r)

/-- FLOAT_CHANGE. -/
def execFloatChange (r : SampleReads) (s : State) : Host.Outcome State Fault Refusal :=
  .next (s.sampleWhere (s.floatChanges r) r)

/-- CALIBRATION_COMPLETE. -/
def execCalibrationComplete (r : SampleReads) (s : State) : Host.Outcome State Fault Refusal :=
  .next (s.sampleWhere (s.calibrationCompletes r) r)

end Sys2Proof.Machine
end

