-- ==== Sys2Proof/Machine/Starts.lean ====
section
/-! DEFINITION. The commands of the starts and supplies: POWER_ON, RESET_PIN_ASSERT, RESET_PIN_RELEASE, BROWN_OUT,
BROWN_OUT_RECOVERY, END_OF_START, BACKUP_SUPPLY_LOSS. -/

namespace Sys2Proof.Machine

open Sys2Proof

/-- The main supply lost: with no backup supply the domain loses both (R188). A supply already lost is lost no further. -/
def State.dropMain (s : State) : State :=
  let t := if s.pins.mainSupply && !s.pins.backup then s.loseRetention else s
  { t with pins := { t.pins with mainSupply := false } }

/-- BACKUP_SUPPLY_LOSS (R188): with the main supply absent the domain loses both. -/
def State.backupLoss (s : State) : State :=
  let t := if s.pins.backup && !s.pins.mainSupply then s.loseRetention else s
  { t with pins := { t.pins with backup := false } }

/-- POWER_ON (R183): the main supply has been absent and rises; START begins. A backup supply that the operand says is absent,
with no BACKUP_SUPPLY_LOSS before it, is lost once the main supply stands (assumption log 55). -/
def State.powerOn (p : StartPins) (s : State) : State :=
  let t := s.dropMain
  State.startIfReady { t with pins := { t.pins.withStart p with mainSupply := true } }

/-- RESET_PIN_ASSERT (R183): the node stands at rest while the pin is held. -/
def State.resetAssert (s : State) : State := State.atRest { s with pins := { s.pins with resetHeld := true } }

/-- RESET_PIN_RELEASE (R183): START begins, where the pin was held and the supply stands. A backup supply that the operand says
is absent is lost by then, and both are where the main supply is absent too (R188). -/
def State.resetRelease (p : StartPins) (s : State) : State :=
  if s.pins.resetHeld then
    let t := if p.backup then s else s.backupLoss
    State.startIfReady { t with pins := { t.pins.withStart p with resetHeld := false } }
  else s

/-- BROWN_OUT (R183, R188): the node stands at rest until the supply stands again. -/
def State.brownOut (s : State) : State := s.dropMain.atRest

/-- BROWN_OUT_RECOVERY (R183): START begins, where the supply had fallen. A backup supply is lost as at POWER_ON (assumption
log 55). -/
def State.brownOutRecovery (p : StartPins) (s : State) : State :=
  if s.pins.mainSupply then s
  else State.startIfReady { s with pins := { s.pins.withStart p with mainSupply := true } }

/-- The profile read (R186), unless the station strap reads 0 (R185). -/
def State.readProfile (r : StartReads) (s : State) : State :=
  if s.node.strapZero then s else { s with spi := ⟨readCommand, r.record⟩ }

/-- END_OF_START (R184 steps 4 to 6), where a START is under way: the straps of a RESTART are read (R185, assumption log 35); the
profile is read and checked; each block takes its values; the node enters LISTEN, or FALLBACK. -/
def State.endOfStart (r : StartReads) (s : State) : State :=
  if s.startUnderWay then
    let u := s.readStraps r
    let t := u.readProfile r
    let t := { t with pins := t.pins.withReads r }
    if !u.node.strapZero && recordOk r.record then State.endEvent s (t.intoListen (profileOf r.record) r)
    else State.endEvent s (t.intoFallback r)
  else s

/-- POWER_ON. -/
def execPowerOn (p : StartPins) (s : State) : Host.Outcome State Fault Refusal := .next (s.powerOn p)

/-- RESET_PIN_ASSERT. -/
def execResetPinAssert (s : State) : Host.Outcome State Fault Refusal := .next s.resetAssert

/-- RESET_PIN_RELEASE. -/
def execResetPinRelease (p : StartPins) (s : State) : Host.Outcome State Fault Refusal := .next (s.resetRelease p)

/-- BROWN_OUT. -/
def execBrownOut (s : State) : Host.Outcome State Fault Refusal := .next s.brownOut

/-- BROWN_OUT_RECOVERY. -/
def execBrownOutRecovery (p : StartPins) (s : State) : Host.Outcome State Fault Refusal :=
  .next (s.brownOutRecovery p)

/-- END_OF_START. -/
def execEndOfStart (r : StartReads) (s : State) : Host.Outcome State Fault Refusal := .next (s.endOfStart r)

/-- BACKUP_SUPPLY_LOSS. -/
def execBackupSupplyLoss (s : State) : Host.Outcome State Fault Refusal := .next s.backupLoss

end Sys2Proof.Machine
end

