-- ==== Sys2Proof/Machine/Dispatch.lean ====
section
/-! DEFINITION. The dispatch: one arm for each command, each one direct call of its meaning. -/

namespace Sys2Proof.Machine

open Sys2Proof

def exec (i : Instr) (s : State) : Host.Outcome State Fault Refusal :=
  match i with
  | .powerOn p => Sys2Proof.Machine.execPowerOn p s
  | .resetPinAssert => Sys2Proof.Machine.execResetPinAssert s
  | .resetPinRelease p => Sys2Proof.Machine.execResetPinRelease p s
  | .brownOut => Sys2Proof.Machine.execBrownOut s
  | .brownOutRecovery p => Sys2Proof.Machine.execBrownOutRecovery p s
  | .endOfStart r => Sys2Proof.Machine.execEndOfStart r s
  | .sample r => Sys2Proof.Machine.execSample r s
  | .sensorFaultSet r => Sys2Proof.Machine.execSensorFaultSet r s
  | .sensorFaultClear r => Sys2Proof.Machine.execSensorFaultClear r s
  | .floatChange r => Sys2Proof.Machine.execFloatChange r s
  | .calibrationComplete r => Sys2Proof.Machine.execCalibrationComplete r s
  | .frameClose => Sys2Proof.Machine.execFrameClose s
  | .recordStale st => Sys2Proof.Machine.execRecordStale st s
  | .recordGone st => Sys2Proof.Machine.execRecordGone st s
  | .lineSilenceExpiry => Sys2Proof.Machine.execLineSilenceExpiry s
  | .supplySourceChange source => Sys2Proof.Machine.execSupplySourceChange source s
  | .ownSagSet code => Sys2Proof.Machine.execOwnSagSet code s
  | .ownSagClear code => Sys2Proof.Machine.execOwnSagClear code s
  | .sagHoldEnd => Sys2Proof.Machine.execSagHoldEnd s
  | .loopStep => Sys2Proof.Machine.execLoopStep s
  | .switchChange n pos => Sys2Proof.Machine.execSwitchChange n pos s
  | .restTimerExpiry n => Sys2Proof.Machine.execRestTimerExpiry n s
  | .overcurrentTrip n code => Sys2Proof.Machine.execOvercurrentTrip n code s
  | .dryrunTrip n code => Sys2Proof.Machine.execDryrunTrip n code s
  | .retryExpiry n => Sys2Proof.Machine.execRetryExpiry n s
  | .dryStageClear => Sys2Proof.Machine.execDryStageClear s
  | .runMinute n => Sys2Proof.Machine.execRunMinute n s
  | .outsideFilterChange active => Sys2Proof.Machine.execOutsideFilterChange active s
  | .warnTimerExpiry => Sys2Proof.Machine.execWarnTimerExpiry s
  | .clearanceTimerExpiry => Sys2Proof.Machine.execClearanceTimerExpiry s
  | .presenceClear => Sys2Proof.Machine.execPresenceClear s
  | .maxClearExpiry => Sys2Proof.Machine.execMaxClearExpiry s
  | .reopenHoldExpiry => Sys2Proof.Machine.execReopenHoldExpiry s
  | .limitChange which active => Sys2Proof.Machine.execLimitChange which active s
  | .keyTakeover d => Sys2Proof.Machine.execKeyTakeover d s
  | .keyRelease => Sys2Proof.Machine.execKeyRelease s
  | .gateStall code => Sys2Proof.Machine.execGateStall code s
  | .backoffEnd => Sys2Proof.Machine.execBackoffEnd s
  | .travelMaximum => Sys2Proof.Machine.execTravelMaximum s
  | .lampTick r => Sys2Proof.Machine.execLampTick r s
  | .lampFailed r => Sys2Proof.Machine.execLampFailed r s
  | .lampShorted r => Sys2Proof.Machine.execLampShorted r s
  | .lineCharacter c => Sys2Proof.Machine.execLineCharacter c s
  | .attemptStart => Sys2Proof.Machine.execAttemptStart s
  | .retryStart => Sys2Proof.Machine.execRetryStart s
  | .collision readBack stopOk => Sys2Proof.Machine.execCollision readBack stopOk s
  | .attemptComplete => Sys2Proof.Machine.execAttemptComplete s
  | .reportTimerExpiry => Sys2Proof.Machine.execReportTimerExpiry s
  | .close dest => Sys2Proof.Machine.execClose dest s
  | .reopen dest => Sys2Proof.Machine.execReopen dest s
  | .gateStop dest => Sys2Proof.Machine.execGateStop dest s
  | .gateRelease dest => Sys2Proof.Machine.execGateRelease dest s
  | .pumpManual dest n duty => Sys2Proof.Machine.execPumpManual dest n duty s
  | .pumpAuto dest n => Sys2Proof.Machine.execPumpAuto dest n s
  | .lampManual dest ch level => Sys2Proof.Machine.execLampManual dest ch level s
  | .lampAuto dest ch => Sys2Proof.Machine.execLampAuto dest ch s
  | .calibrate dest => Sys2Proof.Machine.execCalibrate dest s
  | .clear dest => Sys2Proof.Machine.execClear dest s
  | .query dest page => Sys2Proof.Machine.execQuery dest page s
  | .dump dest => Sys2Proof.Machine.execDump dest s
  | .dumpAndZero dest => Sys2Proof.Machine.execDumpAndZero dest s
  | .restart dest => Sys2Proof.Machine.execRestart dest s
  | .listenTimerExpiry => Sys2Proof.Machine.execListenTimerExpiry s
  | .backupSupplyLoss => Sys2Proof.Machine.execBackupSupplyLoss s

end Sys2Proof.Machine
end

