-- ==== Sys2Proof/Safety.lean ====
section
/-! DEFINITION. The terms in which claims about the part are stated: what an event leaves as it was (`stable`), the
properties that every step keeps (R43, R49, R50, R56, R63, R67, R74, R89, R94, R104, R118, R134, R137, R154, R178, R188),
and what stands after a start, a sample, a reception, a trip, a tick, or a change of the transmit queue. -/

namespace Sys2Proof.Machine

open Sys2Proof

/-! ### The state without its times and reads -/

/-- A rest timer without its time. -/
def RestTimer.timeless : RestTimer → RestTimer
  | .counting _ => .counting 0
  | .done => .done

/-- The dry-stage timer without its time. -/
def DryStageTimer.timeless : DryStageTimer → DryStageTimer
  | .stopped => .stopped
  | .counting _ => .counting 0
  | .held => .held

/-- A switch without the reads that may change it. -/
def SwitchInput.timeless (w : SwitchInput) : SwitchInput := ⟨w.debounced, none, 0⟩

/-- A limit without the reads that may change it. -/
def LimitInput.timeless (l : LimitInput) : LimitInput := ⟨l.active, 0⟩

/-- The key without the reads that may change it. -/
def KeyInput.timeless (w : KeyInput) : KeyInput := ⟨w.debounced, none, 0⟩

/-- A pump's record without its times and reads. -/
def PumpRec.timeless (r : PumpRec) : PumpRec :=
  { r with
    rest := r.rest.timeless, retry := r.retry.map fun _ => 0, overRun := 0, dryRun := 0, runAcc := 0
    switch := r.switch.timeless }

/-- A station record without its heard timer. -/
def StationRecord.timeless (r : StationRecord) : StationRecord := { r with heard := 0 }

/-- The state with every timer, run and clock at 0, every filter's and debounced input's candidate absent, and every value
that a periodic read leaves at one fixed value. Whether a timer that can be stopped runs stays visible. -/
def State.timeless (s : State) : State :=
  { s with
    node := { s.node with listenTimer := 0, readClock := 0 }
    level := { s.level with sampleTimer := 0, settle := s.level.settle.map fun _ => 0 }
    picture := { s.picture with
      records := Fifteen.ofFn fun i => (s.picture.records.get i).timeless, silence := 0 }
    allot := { s.allot with
      genHeld := none, sense := 0, underRun := 0, recoverRun := 0, sagHold := s.allot.sagHold.map fun _ => 0 }
    pumps := { s.pumps with
      p1 := s.pumps.p1.timeless, p2 := s.pumps.p2.timeless, loopTimer := 0, dryStage := s.pumps.dryStage.timeless }
    closure := { s.closure with
      outsideHeld := none, warnTimer := 0, clearanceTimer := 0, loopRead := false, loopClock := 0, presenceRun := 0
      maxClearTimer := 0
      reopenHold := s.closure.reopenHold.map fun _ => 0 }
    gate := { s.gate with
      travel := 0, backoff := s.gate.backoff.map fun _ => 0, stallRun := 0, openLimit := s.gate.openLimit.timeless
      closedLimit := s.gate.closedLimit.timeless, key := s.gate.key.timeless, code := 0 }
    lamps := { s.lamps with lampTimer := 0 }
    line := { s.line with silence := 0, sinceOwn := 0, reportTimer := 0 } }

/-! ### What only events change

Within an event the blocks follow one another: the phase, the demands, the shares, the pumps, the gate and the lamps act
on what has changed (R182 and the chapters' own rules). Those items are put to one fixed value here, so that two states
with the same `kept` agree in all that only events themselves change. -/

/-- The items of a pump's record that its derivation (R63) never changes. -/
def PumpRec.kept (r : PumpRec) : PumpRec :=
  { r with
    state := .off, cause := .none, want := 0, ceiling := 0, duty := 0, rest := .done, overRun := 0, dryRun := 0 }

/-- The items of a lamp's record that setting its output never changes. -/
def LampRec.kept (r : LampRec) : LampRec := { r with submerged := false, output := 0 }

/-- The counters without those that what follows from an event may raise: the pump starts (R86), the gate closures (R120),
the deferrals (R154) and the queue drops (R155, R156). -/
def Counters.kept (c : Counters) : Counters :=
  { c with pump1Starts := 0, pump2Starts := 0, gateClosures := 0, deferrals := 0, queueDrops := 0 }

/-- The state with every item that follows from others put to one fixed value. -/
def State.kept (s : State) : State :=
  { s with
    level := { s.level with settle := none, armed := false, collector := Collector.empty }
    picture := s.picture.put s.node.station StationRecord.atStart
    allot := { s.allot with sagHold := none, usable := 0, shares := Demands.zero, overrun := false }
    demands := Demands.zero
    pumps := { s.pumps with p1 := s.pumps.p1.kept, p2 := s.pumps.p2.kept, want := 0, settled := false, lead := .one }
    closure := { s.closure with
      phase := .opened, own := Origins.empty, warnTimer := 0, reopenHold := none, blocked := false }
    gate := { s.gate with
      state := .unknown, dir := none, holdCause := none, demand := none, travel := 0, retries := 0, backoff := none,
      stallRun := 0, jam := none, keyBarred := false }
    lamps := { s.lamps with
      recs := Eight.ofFn fun i => (s.lamps.recs.get i).kept
      common := 0, aspect := .dark, amberCounter := 0, guidanceCounter := 0, degraded := false }
    line := { s.line with
      waiting := [], flight := none, attempts := 0, newer := false, access := .none, reportTimer := 0
      replyLeft := false }
    counters := s.counters.kept
    retention := ⟨Retained.blank, false⟩ }

/-- What an event leaves as it was, but for what it says it changes: everything but the times, the reads and what follows from other
items. The frame of every event is an equation of two `stable` states. -/
def State.stable (s : State) : State := s.timeless.kept

/-! ### The properties every step keeps -/

/-- Every counter lies within 0 to 65535 (R178). -/
def Counters.bounded (c : Counters) : Prop := ∀ n ∈ c.toList, n ≤ 65535

/-- The counters within their range (R178), with what keeps them there through a start: a domain whose check matches, and
one judged valid, hold counters within their range; no restart is pending in START; the supply is absent in START only, with
no retention judged valid. -/
def State.countersInRange (s : State) : Prop :=
  s.counters.bounded ∧
  (s.retention.intact = true → s.retention.items.counters.bounded) ∧
  (s.node.state = .start → s.restartPending = false) ∧
  (s.node.state = .start → s.node.retentionValid = true → s.retention.items.counters.bounded) ∧
  (s.pins.mainSupply = false → s.node.state = .start ∧ s.node.retentionValid = false)

/-- At most four entries wait, at most one of them a STATUS marker (R154). -/
def State.queueInRange (s : State) : Prop := s.line.waiting.length ≤ 4 ∧ s.line.waiting.count .status ≤ 1

/-- Outside START the domain holds what its owners hold, and its check matches (R188, R189); and the supply is absent in
START only. -/
def State.retentionFollows (s : State) : Prop :=
  (s.node.state ≠ .start → s.retention = ⟨s.retainedItems, true⟩) ∧ (s.pins.mainSupply = false → s.node.state = .start)

/-- While closure is wanted the phase is neither OPEN nor REOPENING (R94). -/
def State.wantedIsClosing (s : State) : Prop :=
  s.node.state.running = true → s.wanted = true → s.closure.phase ≠ .opened ∧ s.closure.phase ≠ .reopening

/-- Without key drive the gate motor runs only while the MOTION share is at least the rated draw (R118). -/
def State.motorHasShare (s : State) : Prop :=
  s.node.state.running = true → s.profile.gate.present = true → s.gate.keyDrive = none → s.gate.motor.isSome = true →
    s.profile.gate.ratedDraw ≤ s.allot.shares.m

/-- A hundred times the draw of a pump in AUTO or REMOTE MANUAL: rated draw × running duty, and nothing for a pump in HAND
(R74). -/
def PumpRec.drawHundredths (pp : PumpProfile) (r : PumpRec) : Nat :=
  if r.state = .hand then 0 else pp.ratedDraw * r.duty

/-- The summed draw of the pumps in AUTO or REMOTE MANUAL is within the PUMPING share (R74). -/
def State.drawWithinShare (s : State) : Prop :=
  s.node.state.running = true →
    s.pumps.p1.drawHundredths s.profile.pump1 + s.pumps.p2.drawHundredths s.profile.pump2 ≤ 100 * s.allot.shares.p

/-- No lamp of class SIGNAL GREEN is lit unless the phase is OPEN and the gate, where present, is OPEN (R137). -/
def State.greenOnlyOpen (s : State) : Prop :=
  s.node.state.running = true → ∀ i, (s.profile.lamps.get i).cls = .signalGreen → (s.lamps.recs.get i).output ≠ 0 →
    s.closure.phase = .opened ∧ (s.reportedGate = none ∨ s.reportedGate = some .opened)

/-- Each share is at most the demand of its class, and the four together are at most the usable capacity (R56). -/
def State.sharesWithin (s : State) : Prop :=
  s.node.state.running = true →
    s.allot.shares.t ≤ s.demands.t ∧ s.allot.shares.m ≤ s.demands.m ∧ s.allot.shares.p ≤ s.demands.p ∧
    s.allot.shares.l ≤ s.demands.l ∧
    s.allot.shares.t + s.allot.shares.m + s.allot.shares.p + s.allot.shares.l ≤ s.allot.usable

/-! ### What follows from other items, as every step leaves it -/

/-- The own LEVEL and OUTSIDE origins are those of the stage and of the filtered detector (R89, R90). -/
def State.originsFollow (s : State) : Prop :=
  s.node.state.running = true →
    s.closure.own.level = decide (3 ≤ s.level.stage.num) ∧
    s.closure.own.outside = (s.profile.gate.present && s.closure.outside)

/-- The gate controller holds the demand the phase makes (R104): CLOSE in SEALING and SEALED, OPEN in REOPENING. -/
def State.gateDemandFollows (s : State) : Prop :=
  s.node.state.running = true →
    s.gate.demand =
      match s.closure.phase with
      | .sealing | .sealed => some .toClose
      | .reopening => some .toOpen
      | .opened | .warning | .stopping | .clearing => none

/-- The phase as the union and the gate leave it (R95, R97, R99, R101, R102): the reopen hold timer runs exactly while closure is
not wanted in STOPPING, CLEARING, SEALING and SEALED; WARNING stands only while closure is wanted; SEALING does not stand with the
gate CLOSED, nor REOPENING with the gate OPEN, nor either without a gate. -/
def State.closureFollows (s : State) : Prop :=
  s.node.state.running = true →
    (s.closure.reopenHold.isSome = true ↔
      s.wanted = false ∧
      (s.closure.phase = .stopping ∨ s.closure.phase = .clearing ∨ s.closure.phase = .sealing ∨ s.closure.phase = .sealed)) ∧
    (s.closure.phase = .warning → s.wanted = true) ∧
    (s.closure.phase = .sealing → s.profile.gate.present = true ∧ s.gate.state ≠ .closed) ∧
    (s.closure.phase = .reopening → s.profile.gate.present = true ∧ s.gate.state ≠ .opened)

/-- A gate under the closure demand `d`, with a MOTION share (R117, R118): at rest at its target limit; else driven where the share
reaches the rated draw, and HELD for want of it where not. -/
def Gate.underDemandIs (p : GateProfile) (share : Nat) (d : Dir) (g : Gate) : Prop :=
  (g.atTarget d = true → g.state = d.atLimit) ∧
  (g.atTarget d = false →
    g.dir = some d ∧ (p.ratedDraw ≤ share → g.state = d.moving) ∧
    (share < p.ratedDraw → g.state = .held ∧ g.holdCause = some .share))

/-- The authority table of R114, with the key at AUTO: JAMMED while a jam stands, which both limits together make (R122); HELD with
cause COMMAND under the command hold, but for a gate at rest at a limit or UNKNOWN; under the closure demand; and else at rest. -/
def Gate.tableHolds (p : GateProfile) (share : Nat) (g : Gate) : Prop :=
  let atRest := g.state = .unknown ∨ g.state = .opened ∨ g.state = .closed
  (g.bothLimits = true → g.jam = some .limits) ∧
  (g.jam.isSome = true → g.state = .jammed) ∧
  (g.jam = none → g.state ≠ .jammed) ∧
  (g.jam = none → g.commandHold = true → atRest ∨ (g.state = .held ∧ g.holdCause = some .command)) ∧
  (g.jam = none → g.commandHold = false → g.demand = none → atRest ∨ (g.state = .held ∧ g.holdCause = some .share)) ∧
  (∀ d, g.jam = none → g.commandHold = false → g.demand = some d → g.underDemandIs p share d) ∧
  (g.state = .opened → g.openLimit.active = true) ∧ (g.state = .closed → g.closedLimit.active = true) ∧
  (g.state = .unknown → g.openLimit.active = false ∧ g.closedLimit.active = false)

/-- The gate under the key (R115): at rest at its target limit; else driven, but HELD (SHARE) after a stall or a limit conflict
(assumption logs 16 and 48). -/
def Gate.underKeyIs (d : Dir) (g : Gate) : Prop :=
  g.dir = some d ∧ (g.bothLimits = true → g.jam = some .limits) ∧
  (g.atTarget d = true → g.state = d.atLimit) ∧
  (g.atTarget d = false → (g.keyStalled = true ∨ g.keyBarred = true) → g.state = .held ∧ g.holdCause = some .share) ∧
  (g.atTarget d = false → g.keyStalled = false → g.keyBarred = false → g.state = d.moving)

/-- The key drive of a key position (R115, R116). -/
def KeyPos.drive : KeyPos → Option Dir
  | .auto => none
  | .turned d => some d

/-- The gate follows the authority table of R114 under the MOTION share that stands; a hold cause is present in HELD only (R111),
and a back-off only while the gate moves without key drive (R115, R118, R120 to R122, R125); the key drive is that of the key's
position, and with it the retries left are full (R115). In FALLBACK it follows the limits and the key alone (R129). -/
def State.gateFollows (s : State) : Prop :=
  (s.node.state.running = true → s.profile.gate.present = true →
    s.gate.keyDrive = s.gate.key.debounced.drive ∧
    (s.gate.keyDrive = none → s.gate.tableHolds s.profile.gate s.allot.shares.m) ∧
    (∀ d, s.gate.keyDrive = some d → s.gate.underKeyIs d ∧ s.gate.retries = s.profile.gate.stallRetries) ∧
    (s.gate.holdCause.isSome = true ↔ s.gate.state = .held) ∧
    (s.gate.backoff.isSome = true → s.gate.state.moves = true ∧ s.gate.keyDrive = none)) ∧
  (s.node.state = .fallback →
    s.gate.keyDrive = s.gate.key.debounced.drive ∧ s.gate.backoff = none ∧
    (s.gate.bothLimits = true → s.gate.state = .jammed) ∧
    (∀ d, s.gate.bothLimits = false → s.gate.keyDrive = some d →
      s.gate.state = if s.gate.atTarget d then d.atLimit else d.moving) ∧
    (s.gate.bothLimits = false → s.gate.keyDrive = none →
      s.gate.state =
        if s.gate.closedLimit.active then .closed else if s.gate.openLimit.active then .opened else .unknown))

/-- While sag is seen the sag-hold timer stands running at 0 (R47); in FALLBACK it is STOPPED and the own sag flag clear (R46,
R60). -/
def State.sagFollows (s : State) : Prop :=
  (s.node.state.running = true → s.sagSeen = true → s.allot.sagHold = some 0) ∧
  (s.node.state = .fallback → s.allot.sagHold = none ∧ s.allot.ownSag = false)

/-- When sag is seen (R36, R47): while the own sag flag is set, or in ACTIVE while a FRESH or STALE peer record carries one. -/
def State.sagSeenIs (s : State) : Prop :=
  s.sagSeen = true ↔
    s.allot.ownSag = true ∨
    (s.node.state = .active ∧
      ∃ i, i ≠ s.node.station ∧ (s.picture.records.get i).report.flags.sag = true ∧
        ((s.picture.records.get i).presence = .fresh ∨ (s.picture.records.get i).presence = .stale))

/-- A pump in none of the states ABSENT, OFF, HAND, TRIPPED and LOCKED (R63, R72; that the lead role does not pass to an ABSENT pump
is assumption log 12). -/
def State.canLead (s : State) (n : PumpNo) : Prop :=
  (s.profile.pump n).present = true ∧ (s.pumps.get n).fault = .none ∧ (s.pumps.get n).switch.debounced = .auto

/-- The wants (R67, R70 to R72, R85): W is at most Wmax, 0 and not settled without a WET dry float, and split between the pumps;
and the lead role stands at a pump that can lead, where one can. -/
def State.wantsFollow (s : State) : Prop :=
  s.node.state.running = true →
    s.pumps.want ≤ s.wantMax ∧ (s.level.dry.debounced ≠ .wet → s.pumps.want = 0 ∧ s.pumps.settled = false) ∧
    s.pumps.p1.want = s.wantOf .one ∧ s.pumps.p2.want = s.wantOf .two ∧
    (s.canLead s.pumps.lead.other → s.canLead s.pumps.lead)

/-- A pump's state, cause and running duty as the table of R63 has them, with the ceiling of R74 and the rules for a start
(R64, R77, R78). -/
def PumpRec.tableHolds (pp : PumpProfile) (sagHeld : Bool) (r : PumpRec) : Prop :=
  if pp.present = false then r.state = .absent ∧ r.cause = .none ∧ r.duty = 0
  else
    match r.fault with
    | .locked c => r.state = .locked ∧ r.cause = c.asCause ∧ r.duty = 0
    | .tripped c => r.state = .tripped ∧ r.cause = c.asCause ∧ r.duty = 0
    | .none =>
      match r.switch.debounced with
      | .off | .unsettled => r.state = .off ∧ r.cause = .none ∧ r.duty = 0
      | .hand => r.state = .hand ∧ r.cause = .none ∧ r.duty = if r.rested then pp.handDuty else 0
      | .auto =>
        (r.want = 0 ∧ r.state = .idle ∧ r.cause = .none ∧ r.duty = 0) ∨
        (0 < r.want ∧ pp.minDuty ≤ r.ceiling ∧ r.state = .running ∧ r.cause = .none ∧ r.duty = min r.want r.ceiling) ∨
        (0 < r.want ∧ r.ceiling < pp.minDuty ∧ r.state = .suspended ∧ r.cause = .share ∧ r.duty = 0) ∨
        (0 < r.want ∧ pp.minDuty ≤ r.ceiling ∧ sagHeld = true ∧ r.state = .suspended ∧ r.cause = .sag ∧ r.duty = 0) ∨
        (0 < r.want ∧ pp.minDuty ≤ r.ceiling ∧ sagHeld = false ∧ r.rested = false ∧ r.state = .resting ∧
          r.cause = .none ∧ r.duty = 0)

/-- Both pumps follow the table of R63, under the ceilings their portions of the PUMPING share give (R74). -/
def State.pumpsFollow (s : State) : Prop :=
  s.node.state.running = true →
    s.pumps.p1.tableHolds s.profile.pump1 s.allot.sagHeld ∧ s.pumps.p2.tableHolds s.profile.pump2 s.allot.sagHeld ∧
    s.pumps.p1.ceiling = ceilingOf s.profile.pump1.ratedDraw (s.portionOf .one) ∧
    s.pumps.p2.ceiling = ceilingOf s.profile.pump2.ratedDraw (s.portionOf .two)

/-- The four own demands are those the pump, gate and lamp controllers form (R73, R112, R135). -/
def State.demandsFollow (s : State) : Prop :=
  s.node.state.running = true →
    s.demands.t = min (s.pumpStanding + s.gate.standingDemand s.profile.gate + s.lampStanding) 255 ∧
    s.demands.m = s.gate.motionDemand s.profile.gate ∧
    s.demands.p =
      min (s.pumps.p1.pumpingPart s.profile.pump1 + s.pumps.p2.pumpingPart s.profile.pump2) 255 ∧
    s.demands.l = min (drawAt (litDraw s.profile.lamps s.lamps.recs) (s.target - s.profile.minLevel)) 255

/-- The lamps (R134, R136 to R140, R144): the submerged indications, the degraded flag and the aspect are those the stage,
the phase and the gate give; the common level is that of the LIGHTING share; every output is that of its record. -/
def State.lampsFollow (s : State) : Prop :=
  s.node.state.running = true →
    (∀ i, (s.lamps.recs.get i).submerged =
      submergedAt s.profile s.level.stage s.level.level (s.profile.lamps.get i)) ∧
    s.lamps.degraded = degradedOf s.profile.lamps s.lamps.recs ∧
    s.lamps.aspect = aspectOf s.profile.lamps s.closure.phase s.reportedGate s.lamps.degraded ∧
    (litDraw s.profile.lamps s.lamps.recs ≠ 0 →
      s.lamps.common = s.profile.minLevel +
        min (s.target - s.profile.minLevel) (s.allot.shares.l * 100 / litDraw s.profile.lamps s.lamps.recs)) ∧
    (∀ i, (s.lamps.recs.get i).output = (s.lamps.recs.get i).outputOf s.profile s.lampView (s.profile.lamps.get i))

/-! ### What those items are, written out

Each of these holds of every state. They say in the manual's own terms what the items are that `wantsFollow`, `demandsFollow`
and `lampsFollow` equate with the operations of the model. -/

/-- The pool, Wmax and the split (R67, R71, R85): who is in the pool; a want above 0 is raised to the minimum duty; in REMOTE
MANUAL the manual duty is wanted where the pump can run and the dry float is WET, and nothing elsewhere, of a TRIPPED pump that
is to retry too (assumption log 51). -/
def State.splitIs (s : State) (n : PumpNo) : Prop :=
  let r := s.pumps.get n
  let pp := s.profile.pump n
  (s.pooled n = true ↔
    pp.present = true ∧ r.switch.debounced = .auto ∧ r.remote = false ∧
    (r.fault = .none ∨ ((∃ c, r.fault = .tripped c) ∧ r.latched = false))) ∧
  s.wantMax = 100 * ([PumpNo.one, .two].countP fun k => s.pooled k) ∧
  (∀ w, s.pooled n = true →
    w = (if s.pooled n.other = false then s.pumps.want
      else if n = s.pumps.lead then min s.pumps.want 100 else s.pumps.want - 100) →
    s.wantOf n = if w = 0 then 0 else max w pp.minDuty) ∧
  (r.remote = false → s.pooled n = false → s.wantOf n = 0) ∧
  (r.remote = true → pp.present = true → r.fault = .none → r.switch.debounced = .auto → s.level.dry.debounced = .wet →
    s.wantOf n = if r.manualDuty = 0 then 0 else max r.manualDuty pp.minDuty) ∧
  (r.remote = true →
    (pp.present = false ∨ r.fault ≠ .none ∨ r.switch.debounced ≠ .auto ∨ s.level.dry.debounced ≠ .wet) → s.wantOf n = 0)

/-- A pump's parts of the demands (R66, R73): ceil(rated draw × want / 100) of P at AUTO, not tripped and not locked, and
ceil(rated draw × hand duty / 100) of T at HAND. -/
def PumpRec.partsAre (pp : PumpProfile) (r : PumpRec) : Prop :=
  let runs := pp.present = true ∧ r.fault = .none
  (runs → r.switch.debounced = .auto → r.pumpingPart pp = (pp.ratedDraw * r.want + 99) / 100) ∧
  (¬ runs ∨ r.switch.debounced ≠ .auto → r.pumpingPart pp = 0) ∧
  (runs → r.switch.debounced = .hand → r.standingPart pp = (pp.ratedDraw * pp.handDuty + 99) / 100) ∧
  (¬ runs ∨ r.switch.debounced ≠ .hand → r.standingPart pp = 0)

/-- The motor and the gate's parts of the demands (R112, R123). A gate stalled under the key with a demand standing has its M
demand (assumption log 41). -/
def Gate.partsAre (p : GateProfile) (g : Gate) : Prop :=
  let moves := (g.state = .closing ∨ g.state = .opening) ∧ g.keyDrive = none
  let waits := g.state = .held ∧ g.holdCause = some .share ∧ g.demand ≠ none
  (g.motor =
    match g.state, g.backoff with
    | .closing, none => some .toClose
    | .closing, some _ => some .toOpen
    | .opening, none => some .toOpen
    | .opening, some _ => some .toClose
    | _, _ => none) ∧
  (p.present = true → moves ∨ waits → g.motionDemand p = p.ratedDraw) ∧
  (p.present = false ∨ ¬ (moves ∨ waits) → g.motionDemand p = 0) ∧
  (p.present = true → g.keyDrive ≠ none → g.motor ≠ none → g.standingDemand p = p.ratedDraw) ∧
  (p.present = false ∨ g.keyDrive = none ∨ g.motor = none → g.standingDemand p = 0)

/-- A channel of the lit carriageway set (R134). -/
def LampRec.isLit (lp : LampProfile) (r : LampRec) : Prop :=
  lp.cls = .carriageway ∧ r.manual = none ∧ (r.health = .ok ∨ r.health = .suspect) ∧ r.submerged = false

/-- A channel's part of the T demand (R135). A signal lamp counts where the aspect requires it lit, steady or flashing; amber
under a pattern that never lights does not (assumption log 20). -/
def LampRec.partIs (p : Profile) (a : Aspect) (lp : LampProfile) (r : LampRec) : Prop :=
  let part := r.standingPart p lp a
  let serves := r.health = .ok ∨ r.health = .suspect
  (¬ serves → part = 0) ∧
  (serves → r.submerged = false →
    (lp.cls = .carriageway → part = (lp.ratedDraw * r.manual.getD p.minLevel + 99) / 100) ∧
    (lp.cls = .guidance → part = if 50 ≤ r.manual.getD 100 then lp.ratedDraw else 0)) ∧
  (r.submerged = true → lp.cls = .carriageway ∨ lp.cls = .guidance → part = 0) ∧
  (lp.cls = .unused → part = 0) ∧
  (serves →
    (lp.cls = .signalRed → part = if a = .red then lp.ratedDraw else 0) ∧
    (lp.cls = .signalGreen → part = if a = .green then lp.ratedDraw else 0) ∧
    (lp.cls = .signalAmber →
      (a ≠ .amberWarning → a ≠ .redSubstitute → part = 0) ∧
      (∀ q, (a = .amberWarning ∧ q = p.warningPattern) ∨ (a = .redSubstitute ∧ q = p.substitutePattern) →
        part = if q.on = 0 ∧ q.off ≠ 0 then 0 else lp.ratedDraw)))

/-- The lamp part of T, ΣR and the target (R134, R135). -/
def State.lampPartsAre (s : State) : Prop :=
  (∀ i, (s.lamps.recs.get i).partIs s.profile s.lamps.aspect (s.profile.lamps.get i)) ∧
  s.lampStanding =
    (channels.map fun i => (s.lamps.recs.get i).standingPart s.profile (s.profile.lamps.get i) s.lamps.aspect).sum ∧
  (∀ f : Fin 8 → Nat,
    (∀ i, ((s.lamps.recs.get i).isLit (s.profile.lamps.get i) → f i = (s.profile.lamps.get i).ratedDraw) ∧
      (¬ (s.lamps.recs.get i).isLit (s.profile.lamps.get i) → f i = 0)) →
    litDraw s.profile.lamps s.lamps.recs = (channels.map f).sum) ∧
  (∀ rated level : Nat, drawAt rated level = (rated * level + 99) / 100) ∧
  s.target =
    if s.closure.phase = .sealed then s.profile.minLevel
    else
      max s.profile.minLevel
        (match s.lamps.band with
         | .night => s.profile.nightLevel
         | .dusk => s.profile.duskLevel
         | .day => s.profile.dayLevel
         | .glare => s.profile.glareLevel)

/-- Whether the lamps of a pattern are lit at a counter (R139). -/
def Pattern.litIs (q : Pattern) (counter : Nat) : Prop :=
  q.lit counter =
    if q.on = 0 then decide (q.off = 0)
    else if q.off = 0 then true else decide (counter < q.on)

/-- A channel's output (R131, R134, R136 to R140, R144). -/
def LampRec.outputIs (p : Profile) (v : LampView) (lp : LampProfile) (r : LampRec) : Prop :=
  let out := r.outputOf p v lp
  let serves := r.health = .ok ∨ r.health = .suspect
  let onFull (b : Bool) := out = if b then 100 else 0
  (¬ serves → out = 0) ∧
  (lp.cls = .unused → out = 0) ∧
  (r.submerged = true → lp.cls = .carriageway ∨ lp.cls = .guidance → out = 0) ∧
  (serves → r.submerged = false →
    (lp.cls = .carriageway → out = r.manual.getD v.common) ∧
    (lp.cls = .guidance →
      (∀ m, r.manual = some m → onFull (decide (50 ≤ m))) ∧
      (r.manual = none → v.phase ≠ .sealed → out = 100) ∧
      (r.manual = none → v.phase = .sealed → onFull (p.guidancePattern.lit v.guidance)))) ∧
  (serves →
    (lp.cls = .signalRed → onFull (decide (v.aspect = .red))) ∧
    (lp.cls = .signalGreen → onFull (decide (v.aspect = .green))) ∧
    (lp.cls = .signalAmber →
      (v.aspect = .amberWarning → onFull (p.warningPattern.lit v.amber)) ∧
      (v.aspect = .redSubstitute → onFull (p.substitutePattern.lit v.amber)) ∧
      (v.aspect ≠ .amberWarning → v.aspect ≠ .redSubstitute → out = 0)))

/-- The signal degraded flag and the aspect (R137, R138), at a phase, a gate state and a flag. -/
def signalsAre (lp : Eight LampProfile) (recs : Eight LampRec) (phase : Phase) (gate : Option GateState) (flag : Bool) :
    Prop :=
  (degradedOf lp recs = true ↔
    (∃ i, (lp.get i).cls = .signalRed) ∧
    ∀ i, (lp.get i).cls = .signalRed → (recs.get i).health = .failed ∨ (recs.get i).health = .shorted) ∧
  ((∀ i, (lp.get i).cls ≠ .signalRed ∧ (lp.get i).cls ≠ .signalAmber ∧ (lp.get i).cls ≠ .signalGreen) →
    aspectOf lp phase gate flag = .dark) ∧
  ((∃ i, (lp.get i).cls = .signalRed ∨ (lp.get i).cls = .signalAmber ∨ (lp.get i).cls = .signalGreen) →
    aspectOf lp phase gate flag =
      if phase = .warning then .amberWarning
      else if phase = .opened ∧ (gate = none ∨ gate = some .opened) then .green
      else if flag then .redSubstitute else .red)

/-- The submerged indication, the flag, the aspect, the patterns with their counters, and the outputs, written out (R136 to R140, R144). -/
def State.lampsAre (s : State) : Prop :=
  (∀ i, submergedAt s.profile s.level.stage s.level.level (s.profile.lamps.get i) = true ↔
    s.level.stage = .submerged ∧
    ((s.profile.lamps.get i).cls = .carriageway ∨ (s.profile.lamps.get i).cls = .guidance) ∧
    (s.profile.lamps.get i).mountHeight ≤ s.level.level + s.profile.submergenceMargin) ∧
  signalsAre s.profile.lamps s.lamps.recs s.closure.phase s.reportedGate s.lamps.degraded ∧
  (s.reportedGate =
    if s.node.state = .start ∨ (s.node.state ≠ .fallback ∧ s.profile.gate.present = false) then none
    else some s.gate.state) ∧
  (amberPattern s.profile s.lamps.aspect =
    match s.lamps.aspect with
    | .amberWarning => some s.profile.warningPattern
    | .redSubstitute => some s.profile.substitutePattern
    | _ => none) ∧
  (guidancePattern s.profile s.closure.phase =
    if s.closure.phase = .sealed then some s.profile.guidancePattern else none) ∧
  (∀ (q : Pattern) (counter : Nat), q.litIs counter ∧
    advance (some q) counter =
      (if q.on = 0 ∨ q.off = 0 ∨ q.on + q.off ≤ counter + 1 then 0 else counter + 1)) ∧
  s.lampView =
    ⟨s.lamps.common, s.lamps.aspect, s.closure.phase, s.lamps.amberCounter, s.lamps.guidanceCounter⟩ ∧
  ∀ i, (s.lamps.recs.get i).outputIs s.profile s.lampView (s.profile.lamps.get i)

/-- From `s` to `t` no pump has started short of its rest time, and none but a pump in HAND while sag is held (R66, R77,
R78). -/
def State.startsAllowed (s t : State) : Prop :=
  ∀ n, t.node.state.running = true → (s.pumps.get n).duty = 0 → 0 < (t.pumps.get n).duty →
    (t.pumps.get n).rest = .done ∧ ((t.pumps.get n).state ≠ .hand → t.allot.sagHeld = false)

/-- From `s` to `t` a RUNNING pump that delivers duty, wanted and with its ceiling at or above the minimum duty, has stayed
RUNNING, whatever the sag and the rest timer (line 6 of R63, R77). -/
def State.runningStays (s t : State) : Prop :=
  ∀ n, s.node.state.running = true → t.node.state.running = true →
    (s.pumps.get n).state = .running → 0 < (s.pumps.get n).duty →
    t.canLead n → 0 < (t.pumps.get n).want → (t.profile.pump n).minDuty ≤ (t.pumps.get n).ceiling →
    (t.pumps.get n).state = .running ∧ (t.pumps.get n).duty = min (t.pumps.get n).want (t.pumps.get n).ceiling

/-! ### Outputs at rest -/

/-- Every drive output at rest, as START has them (R146, R183, R184): no pump runs, the gate motor is off, nothing is left to
send, and of the lamps channels 4 and 5 are lit at 100 % and the others unlit. -/
def State.outputsAtRest (s : State) : Prop :=
  s.pumps.p1.duty = 0 ∧ s.pumps.p2.duty = 0 ∧ s.gate.motor = none ∧ s.line.flight = none ∧ s.line.waiting = [] ∧
  ∀ i, (s.lamps.recs.get i).output = if i = 3 ∨ i = 4 then 100 else 0

/-- The levels of a character on the line, by the time since its start: a start bit, eight data bits from the least significant
one, a stop bit, each for one bit time (R194). -/
def charLevel (c : Byte) (x : Time) : Bool := if x < 16 then false else if x < 144 then c.getLsbD (x / 16 - 1) else true

/-- From `s` to `t` a frame in transmission has been cut after the character under way (R165, R180, R183): that character goes on
to its end, and no other follows; without one the line is not driven. -/
def State.frameCut (s t : State) : Prop :=
  t.line.flight = none ∧ t.line.waiting = [] ∧
  (∀ f d, s.line.flight = some f → s.line.access = .none → 0 < f.sent →
    if s.line.sinceOwn + d < 160 then
      (t.elapse d).line.txe = true ∧
      (t.elapse d).line.txd = charLevel (byteAt (f.frame.getD []) (f.sent - 1)) (s.line.sinceOwn + d)
    else (t.elapse d).line.txe = false ∧ (t.elapse d).line.txd = true) ∧
  (∀ d, s.line.txe = false → (t.elapse d).line.txe = false ∧ (t.elapse d).line.txd = true)

/-- The node stands in START with its outputs at rest and nothing judged (R183). -/
def State.standsAtRest (s : State) : Prop :=
  s.node.state = .start ∧ s.outputsAtRest ∧ s.node.profileValid = false ∧ s.node.retentionValid = false ∧
  s.restartPending = false

/-- A START that a RESTART began stands, its outputs at rest and retention valid (R165, R180, R189). -/
def State.warmRestarted (t : State) : Prop :=
  t.node.state = .start ∧ t.outputsAtRest ∧ t.node.retentionValid = true ∧ t.restartPending = false

/-- START has just begun with straps and a retention reading (R146, R183 to R185, R178, R189): the outputs are at rest, the
station is read, retention is judged by the RETAIN reading and the check, and the counters are kept where it is valid. -/
def State.startBegun (p : StartPins) (t : State) : Prop :=
  t.node.state = .start ∧ t.outputsAtRest ∧
  t.node.station.val + 1 = (if p.station = 0 then 15 else p.station) ∧ t.node.strapZero = decide (p.station = 0) ∧
  t.node.retainReading = p.retain ∧ t.node.retentionValid = (p.retain && t.retention.intact) ∧
  t.node.profileValid = false ∧ t.restartPending = false ∧
  t.counters = if p.retain && t.retention.intact then t.retention.items.counters else Counters.zero

/-! ### Terms of the end of START -/

/-- From `s` to `t` the straps have been read where a RESTART began the START (R184, R185), and stand where another start read
them. -/
def State.strapsRead (r : StartReads) (s t : State) : Prop :=
  t.node.strapsDue = false ∧
  (s.node.strapsDue = true →
    t.node.station.val + 1 = (if r.station = 0 then 15 else r.station) ∧
    t.node.strapZero = decide (r.station = 0) ∧ t.node.retainReading = r.retain ∧
    t.pins.station = r.station ∧ t.pins.retain = r.retain) ∧
  (s.node.strapsDue = false →
    t.node.station = s.node.station ∧ t.node.strapZero = s.node.strapZero ∧
    t.node.retainReading = s.node.retainReading ∧ t.pins.station = s.pins.station ∧ t.pins.retain = s.pins.retain) ∧
  t.pins =
    { s.pins with
      station := t.pins.station, retain := t.pins.retain, openLimit := r.openLimit, closedLimit := r.closedLimit
      source := if r.generator then .generator else .mains }

/-- Whether the station strap that decides a START reads 0 (R185). -/
def State.strapAtZero (r : StartReads) (s : State) : Bool :=
  if s.node.strapsDue then decide (r.station = 0) else s.node.strapZero

/-- The gate record in `t`, at the end of a START that `s` stands in, in a bay with a gate (R128, R130): its state by the six
lines of R128, and the other items. -/
def State.gateStarts (r : StartReads) (s t : State) : Prop :=
  let ret := s.retention.items
  let none' := r.openLimit = false ∧ r.closedLimit = false
  (r.openLimit = true → r.closedLimit = true → t.gate.state = .jammed ∧ t.gate.jam = some .limits) ∧
  (r.openLimit = false → r.closedLimit = true → t.gate.state = .closed ∧ t.gate.jam = none) ∧
  (r.openLimit = true → r.closedLimit = false → t.gate.state = .opened ∧ t.gate.jam = none) ∧
  (∀ c, none' → s.node.retentionValid = true → ret.gateState = .jammed → ret.gateJam = some c →
    t.gate.state = .jammed ∧ t.gate.jam = some c ∧ t.gate.dir = ret.gateDir) ∧
  (none' → s.node.retentionValid = true →
    (ret.gateState = .closing ∨ ret.gateState = .opening ∨ ret.gateState = .held) →
    t.gate.state = .held ∧ t.gate.holdCause = some .share ∧ t.gate.dir = ret.gateDir ∧ t.gate.jam = none) ∧
  (none' →
    (s.node.retentionValid = false ∨ ret.gateState = .unknown ∨ ret.gateState = .opened ∨ ret.gateState = .closed) →
    t.gate.state = .unknown ∧ t.gate.dir = none ∧ t.gate.jam = none) ∧
  (s.node.retentionValid = false → t.gate.dir = none) ∧
  (t.gate.state ≠ .held → t.gate.holdCause = none) ∧
  t.gate.commandHold = false ∧ t.gate.demand = none ∧ t.gate.keyDrive = none ∧ t.gate.keyStalled = false ∧
  t.gate.travel = 0 ∧ t.gate.retries = t.profile.gate.stallRetries ∧ t.gate.backoff = none ∧ t.gate.stallRun = 0 ∧
  t.gate.motor = none ∧ t.demands.m = 0

/-- The closure controller in `t`, at the end of a START that `s` stands in (R107, R108): the start phase, which a restored
COMMAND origin takes from OPEN to WARNING, and the timers. -/
def State.closureStarts (s t : State) : Prop :=
  let command := s.node.retentionValid && s.retention.items.command
  let opens :=
    if t.profile.gate.present then decide (t.gate.state = .opened)
    else !s.node.retentionValid || decide (s.retention.items.phaseCode = 0)
  t.closure.own = ⟨false, false, command⟩ ∧
  t.closure.phase = (if opens then (if command then .warning else .opened) else .stopping) ∧
  t.closure.reopenHold = (if !opens && !command then some 0 else none) ∧
  t.closure.outside = false ∧ t.closure.outsideHeld = none ∧
  t.closure.warnTimer = 0 ∧ t.closure.clearanceTimer = 0 ∧ t.closure.presenceRun = 0 ∧ t.closure.maxClearTimer = 0 ∧
  t.closure.blocked = false

/-- A pump's record at the end of a START into LISTEN, before its switch is settled (R88). -/
def PumpRec.starts (pp : PumpProfile) (valid : Bool) (ret : RetainedPump) (r : PumpRec) : Prop :=
  (r.tripCount = if valid = true ∧ pp.present = true then ret.tripCount else 0) ∧
  (r.fault = if valid = true ∧ pp.present = true then ret.fault else .none) ∧
  (∀ c, r.fault = .tripped c → r.latched = true ∧ r.retry = if pp.latch then none else some 0) ∧
  ((∀ c, r.fault ≠ .tripped c) → r.latched = false ∧ r.retry = none) ∧
  r.remote = false ∧ r.manualDuty = 0 ∧ r.want = 0 ∧ r.duty = 0 ∧ r.rest = .counting 0 ∧ r.runAcc = 0 ∧
  r.switch = ⟨.unsettled, none, 0⟩

/-! ### Terms of the samples and the passes -/

/-- What a sample at `r` makes of the collector between `s` and `t`, where no pump runs after it (R15, R16, R18): a collection
takes the code, is aborted, or starts. `t` has the floats, the stage and the fault flag the sample leaves. -/
def State.collectorAfter (r : SampleReads) (s t : State) : Prop :=
  let settled := ∃ k, s.level.settle = some k ∧ s.profile.settleTime * 1000000 ≤ k + (100000 - s.level.sampleTimer)
  let ready :=
    t.level.dry.debounced = .dry ∧ settled ∧ (t.level.stage = .dry ∨ t.level.stage = .wet) ∧ t.level.sensorFault = false
  let fits := s.level.zeroCode ≤ r.code + 80 ∧ r.code ≤ 4050
  (t.pumps.p1.duty = 0 → t.pumps.p2.duty = 0 →
    (s.level.collector.underWay = true → ready → fits → s.level.collector.count + 1 < s.profile.calibrationCount →
      t.level.collector = ⟨true, s.level.collector.sum + r.code, s.level.collector.count + 1⟩ ∧
      t.level.armed = s.level.armed) ∧
    (s.level.collector.underWay = true → ready → ¬ fits →
      t.level.collector = s.level.collector ∧ t.level.armed = s.level.armed) ∧
    (s.level.collector.underWay = true → ¬ ready →
      t.level.collector = ⟨false, 0, 0⟩ ∧ t.level.armed = s.level.armed) ∧
    (s.level.collector.underWay = false → s.level.armed = true → ready →
      t.level.collector = ⟨true, 0, 0⟩ ∧ t.level.armed = false) ∧
    (s.level.collector.underWay = false → (s.level.armed = false ∨ ¬ ready) →
      t.level.collector = s.level.collector ∧ t.level.armed = s.level.armed)) ∧
  (∀ n, (s.pumps.get n).duty = 0 → 0 < (t.pumps.get n).duty →
    t.level.collector = ⟨false, 0, 0⟩ ∧ t.level.armed = true)

/-- Whether the sample at `r` between `s` and `t` completes a collection (R15, R18): one is under way, the calibration conditions
hold with the floats, the stage and the fault flag the sample leaves, the code is in range, and it brings the count to the
calibration count. -/
def State.collectionEnds (r : SampleReads) (s t : State) : Prop :=
  s.level.collector.underWay = true ∧ s.profile.calibrationCount ≤ s.level.collector.count + 1 ∧
  t.level.dry.debounced = .dry ∧
  (∃ k, s.level.settle = some k ∧ s.profile.settleTime * 1000000 ≤ k + (100000 - s.level.sampleTimer)) ∧
  (t.level.stage = .dry ∨ t.level.stage = .wet) ∧ t.level.sensorFault = false ∧
  s.level.zeroCode ≤ r.code + 80 ∧ r.code ≤ 4050

/-- The dry-stage timer a sample leaves (R83): it runs while the stage is DRY, from 0 at a change to DRY and at the first sample
after START, and holds once it has cleared the trip counts. -/
def State.dryStageAfter (s t : State) : Prop :=
  (t.level.stage ≠ .dry → t.pumps.dryStage = .stopped) ∧
  (t.level.stage = .dry → s.level.stage ≠ .dry ∨ s.pumps.dryStage = .stopped → t.pumps.dryStage = .counting 0) ∧
  (t.level.stage = .dry → s.level.stage = .dry →
    (∀ k, s.pumps.dryStage = .counting k →
      t.pumps.dryStage = .counting (min (k + (100000 - s.level.sampleTimer)) 600000000)) ∧
    (s.pumps.dryStage = .held → t.pumps.dryStage = .held))

/-- Where no collection completes at a sample, the zero code, the DRIFT flag and the calibration counters stand (R15, R19). -/
def State.calibrationStands (s t : State) : Prop :=
  t.level.zeroCode = s.level.zeroCode ∧ t.level.drift = s.level.drift ∧
  t.counters.calAccepted = s.counters.calAccepted ∧ t.counters.calRejected = s.counters.calRejected

/-- A float `f` that has been read as `wet` has become `g` (R8). -/
def FloatInput.tookRead (f : FloatInput) (wet : Bool) (g : FloatInput) : Prop :=
  g.candidate = some wet ∧ g.count = (if f.candidate = some wet then min (f.count + 1) 3 else 1) ∧
  g.debounced = if g.count = 3 then (if wet then .wet else .dry) else f.debounced

/-- A ring that an in-range code has entered (R3). -/
def enteredRing (ring : List Nat) (code : Nat) : List Nat :=
  if ring.length < 8 then ring ++ [code] else (ring ++ [code]).drop 1

/-- The level of a full ring (R4, R5): floor((average − zero) × span / (F − zero)), within 0 to span. -/
def convertedLevel (p : Profile) (zero : Nat) (ring : List Nat) : Nat :=
  min p.span ((ring.sum / 8 - zero) * p.span / (p.fullScale - zero))

/-- The sum of one class over the counted entries of a pass. -/
def classSum (f : Demands → Nat) (cs : List Claim) : Nat := (cs.map fun c => f c.demands).sum

/-- The PUMPING demands of the tiers above a stage (R54). -/
def aboveSum (k : Stage) (cs : List Claim) : Nat :=
  ((cs.filter fun c => decide (k.num < c.stage.num)).map fun c => c.demands.p).sum

/-- The PUMPING demands of the tier of a stage (R54). -/
def tierOf (k : Stage) (cs : List Claim) : Nat :=
  ((cs.filter fun c => decide (c.stage = k)).map fun c => c.demands.p).sum

/-- The usable capacity that stands is that of R49 in ACTIVE and of R50 elsewhere. -/
def State.usableFollows (s : State) : Prop :=
  s.node.state.running = true →
    (s.node.state = .active →
      s.allot.usable =
        (match s.allot.source with
         | .mains => s.profile.mainsCapacity
         | .generator => s.profile.generatorCapacity) *
          (100 - if s.allot.sagHold.isSome then s.profile.derate else 0) / 100 - s.profile.reserve) ∧
    (s.node.state ≠ .active → s.allot.usable = s.profile.localAllowance)

/-- The shares that stand are those a pass on the state as it stands would give (R42, R43). -/
def State.sharesFollow (s : State) : Prop :=
  s.node.state.running = true →
    s.allot.shares = s.passResult.shares ∧ s.allot.overrun = s.passResult.overrun ∧
    s.allot.usable = s.usableCapacity

/-! ### Terms of reception -/

/-- The state once a valid frame has been counted and heard, its frame closed (R38, R150, R152). -/
def State.heard (s : State) : State :=
  { s with
    line := { s.line with rx := none, echo := false }
    counters := { s.counters with goodFrames := min (s.counters.goodFrames + 1) 65535 }
    picture :=
      if s.node.state.running then { s.picture with silence := 0, expired := false } else s.picture }

/-- The record a STATUS leaves (R23, R26 to R28): as it was for a duplicate, else filled from the frame. -/
def StationRecord.after (r : StationRecord) (seq : Nat) (rep : Report) : StationRecord :=
  if seq ≠ 0 ∧ seq = r.lastSeq then r
  else { presence := .fresh, lastSeq := seq, heard := 0, report := rep, sticky := none }

/-- Whether a STATUS counts a status gap (R26 to R28): its record was FRESH or STALE, and its sequence is not 0, not the last
one, and not the one after it. -/
def StationRecord.gap (r : StationRecord) (seq : Nat) : Prop :=
  (r.presence = .fresh ∨ r.presence = .stale) ∧ seq ≠ 0 ∧ seq ≠ r.lastSeq ∧
  seq ≠ (if r.lastSeq = 0 ∨ r.lastSeq = 255 then 1 else r.lastSeq + 1)

/-- The row of the table that is a maintenance command, addressed or broadcast. -/
def MaintCommand.row (d : Addressing) : MaintCommand → Instr
  | .close => .close d
  | .reopen => .reopen d
  | .gateStop => .gateStop d
  | .gateRelease => .gateRelease d
  | .pumpManual n q => .pumpManual d n q
  | .pumpAuto n => .pumpAuto d n
  | .lampManual ch l => .lampManual d ch l
  | .lampAuto ch => .lampAuto d ch
  | .calibrate => .calibrate d
  | .clear => .clear d
  | .query p => .query d p
  | .dump => .dump d
  | .dumpAndZero => .dumpAndZero d
  | .restart => .restart d

/-- The line is busy with a character from another station once the silence count has run on for `d` (R149, R154). -/
def State.busyAfter (s : State) (d : Time) : Prop := s.line.lastChar = .other ∧ s.line.silence + d < 320

/-- The deferrals once an entry has become in flight (R154): one more where the line is busy with another station's character. -/
def State.deferred (s : State) (busy : Prop) (t : State) : Prop :=
  (busy → t.counters.deferrals = min (s.counters.deferrals + 1) 65535) ∧
  (¬ busy → t.counters.deferrals = s.counters.deferrals)

/-- From `s` to `t` a REPLY has been handed to the line controller (R154, R156): it is in flight where the queue was empty, with
a deferral where the line is busy, joins behind the entries that wait, and is dropped and counted where four wait. -/
def State.repliedTo (s : State) (payload : List Byte) (t : State) : Prop :=
  (s.line.flight = none → s.line.waiting = [] →
    t.line.flight = some ⟨.reply payload, none, 0⟩ ∧ t.line.access = .defer ∧ t.line.waiting = [] ∧
    s.deferred (s.busyAfter 0) t) ∧
  (s.line.flight ≠ none →
    t.counters.deferrals = s.counters.deferrals ∧
    (s.line.waiting.length < 4 →
      t.line.flight = s.line.flight ∧ t.line.waiting = s.line.waiting ++ [.reply payload] ∧
      t.counters.queueDrops = s.counters.queueDrops)) ∧
  (4 ≤ s.line.waiting.length →
    t.line.flight = s.line.flight ∧ t.line.waiting = s.line.waiting ∧
    t.counters.queueDrops = min (s.counters.queueDrops + 1) 65535)

/-- From `s` to `t` a command has been turned away (R168 to R170): nothing is changed but that a REPLY, where one is due, has been
handed to the line controller, and that the domain holds its owners' items outside START (R188). -/
def State.turnedAway (s : State) (reply : Option (List Byte)) (t : State) : Prop :=
  t = { s with line := t.line, counters := t.counters, retention := t.retention } ∧
  t.retention = (if s.node.state = .start then s.retention else ⟨t.retainedItems, true⟩) ∧
  match reply with
  | none => t.line = { s.line with replyLeft := false } ∧ t.counters = s.counters
  | some payload =>
    t.line =
      { s.line with
        waiting := t.line.waiting, flight := t.line.flight, attempts := t.line.attempts, newer := t.line.newer
        access := t.line.access, replyLeft := false } ∧
    t.counters =
      { s.counters with deferrals := t.counters.deferrals, queueDrops := t.counters.queueDrops } ∧
    s.repliedTo payload t

/-- The REPLY an addressed command is answered with; a broadcast one gets none (R168). -/
def replyIf (dest : Addressing) (payload : List Byte) : Option (List Byte) :=
  match dest with
  | .addressed => some payload
  | .broadcast => none

/-- The twenty counters in the order of the counter table (section 9.6). -/
def Counters.inOrder (c : Counters) : List Nat :=
  [c.statusSent, c.replySent, c.goodFrames, c.crcErrors, c.formatErrors, c.collisions, c.deferrals, c.giveUps,
   c.queueDrops, c.statusGaps, c.pump1Starts, c.pump2Starts, c.pump1Minutes, c.pump2Minutes, c.pumpTrips,
   c.gateClosures, c.gateStalls, c.lampFaults, c.calAccepted, c.calRejected]

/-- The codes of section 11.3. -/
def codesAre : Prop :=
  [NodeState.start, .listen, .active, .isolated, .clash, .fallback].map NodeState.code = [0, 1, 2, 3, 4, 5] ∧
  [Phase.opened, .warning, .stopping, .clearing, .sealing, .sealed, .reopening].map Phase.code = [0, 1, 2, 3, 4, 5, 6] ∧
  [GateState.unknown, .opened, .closing, .closed, .opening, .held, .jammed].map GateState.code = [0, 1, 2, 3, 4, 5, 6] ∧
  [PumpState.absent, .off, .idle, .resting, .running, .suspended, .tripped, .locked, .hand].map PumpState.code =
    [0, 1, 2, 3, 4, 5, 6, 7, 8] ∧
  [PumpCause.none, .share, .sag, .overcurrent, .dryrun].map PumpCause.code = [0, 1, 2, 3, 4] ∧
  [Presence.absent, .fresh, .stale, .gone].map Presence.code = [0, 1, 2, 3] ∧
  [SwitchPos.unsettled, .off, .hand, .auto].map SwitchPos.code = [0, 1, 2, 3] ∧
  [LampClass.unused, .carriageway, .guidance, .signalRed, .signalAmber, .signalGreen].map LampClass.code =
    [0, 1, 2, 3, 4, 5] ∧
  [LampHealth.ok, .suspect, .failed, .shorted].map LampHealth.code = [0, 1, 2, 3] ∧
  [Stage.dry, .wet, .rising, .flood, .submerged].map Stage.num = [0, 1, 2, 3, 4] ∧
  [Band.night, .dusk, .day, .glare].map Band.num = [0, 1, 2, 3] ∧
  [Aspect.dark, .green, .amberWarning, .red, .redSubstitute].map Aspect.code = [0, 1, 2, 3, 4] ∧
  [some Dir.toClose, some .toOpen, none].map dirCode = [0, 1, 255] ∧
  [none, some Dir.toClose, some .toOpen].map demandCode = [0, 1, 2] ∧
  [some HoldCause.share, some .command, none].map holdCode = [0, 1, 255] ∧
  [some JamCause.stall, some .travel, some .limits, none].map jamCode = [0, 1, 2, 255] ∧
  [PumpNo.one, .two].map PumpNo.num = [1, 2]

/-- A set of conditions as a number, the first in bit 0. -/
def bitsOf : List Bool → Nat
  | [] => 0
  | b :: bs => (if b then 1 else 0) + 2 * bitsOf bs

/-- The items of one pump on page 1. -/
def PumpRec.queryItems (r : PumpRec) : List Nat :=
  [r.state.code, r.cause.code, bitsOf [r.remote], r.manualDuty, r.want, r.ceiling, r.duty, r.tripCount,
   r.switch.debounced.code]

/-- The items of one channel on pages 3 and 4: the manual level is 0 in AUTO. -/
def State.queryLamp (s : State) (i : Fin 8) : List Nat :=
  let r := s.lamps.recs.get i
  [(s.profile.lamps.get i).cls.code, bitsOf [r.manual.isSome], r.manual.getD 0, r.health.code, r.filterCount, r.output]

/-- The items the lamp pages share. -/
def State.queryShared (s : State) : List Nat :=
  [s.lamps.band.num, s.lamps.common, s.lamps.aspect.code, bitsOf [s.lamps.degraded]]

/-- The gate items of page 2; a time between two units is rounded down (assumption log 22). -/
def Gate.queryItems (g : Gate) : List Nat :=
  [g.state.code, dirCode g.dir, holdCode g.holdCause, bitsOf [g.commandHold], demandCode g.demand,
   (match g.keyDrive with
    | none => 255
    | some d => dirCode (some d) + if g.keyStalled then 128 else 0),
   g.travel / 100000 / 256, g.travel / 100000, g.retries,
   (match g.backoff with
    | none => 255
    | some k => k / 100000),
   g.stallRun / 10000, jamCode g.jam]

/-- The items of the six QUERY pages (R177, section 11.5), as numbers of which each character carries the low eight bits; of
two characters the first is the more significant. A time between two units is rounded down (assumption log 22). In FALLBACK the
demands and the common level are those of assumption logs 14 and 38. -/
def State.queryItems (s : State) : Nat → List Nat
  | 0 =>
    [s.node.state.code, s.node.station.val + 1,
     bitsOf [decide (s.allot.source = .generator), s.allot.sagHold.isSome, s.allot.ownSag, s.allot.overrun,
       s.level.sensorFault, s.level.drift, s.level.collector.underWay],
     s.allot.usable / 256, s.allot.usable, s.demands.t, s.demands.m, s.demands.p, s.demands.l, s.allot.shares.t,
     s.allot.shares.m, s.allot.shares.p, s.allot.shares.l, s.level.level / 256, s.level.level, s.level.stage.num,
     s.level.zeroCode / 256, s.level.zeroCode]
  | 1 =>
    s.pumps.p1.queryItems ++ s.pumps.p2.queryItems ++ [s.pumps.want, bitsOf [s.pumps.settled], s.pumps.lead.num]
  | 2 =>
    (match s.reportedGate with
     | none => List.replicate 12 255
     | some _ => s.gate.queryItems) ++
    [s.closure.phase.code, bitsOf [s.closure.own.level, s.closure.own.outside, s.closure.own.command],
     bitsOf [s.unionOrigins.level, s.unionOrigins.outside, s.unionOrigins.command], bitsOf [s.closure.blocked]] ++
    (match s.closure.reopenHold with
     | none => [255, 255]
     | some k => [k / 1000000 / 256, k / 1000000])
  | 3 => s.queryLamp 0 ++ s.queryLamp 1 ++ s.queryLamp 2 ++ s.queryLamp 3 ++ s.queryShared
  | 4 => s.queryLamp 4 ++ s.queryLamp 5 ++ s.queryLamp 6 ++ s.queryLamp 7 ++ s.queryShared
  | _ =>
    [s.line.waiting.length,
     (match s.line.flight with
      | none => 0
      | some f => if f.entry = .status then 1 else 3),
     s.line.attempts, s.line.ownSeq] ++
    stations.map fun i => (s.picture.records.get i).presence.code

/-- An entry stands in the transmit queue, in flight or waiting (R154). -/
def State.queued (s : State) (e : Entry) : Prop := s.line.flight.map Flight.entry = some e ∨ e ∈ s.line.waiting

/-- From `s` to `t` an addressed command has been answered with a REPLY, which stands in the transmit queue where fewer than
three entries waited (so that one prompt report and the REPLY find their places; R156, R168). -/
def State.answers (dest : Addressing) (payload : List Byte) (s t : State) : Prop :=
  dest = .addressed → s.line.waiting.length < 3 → t.queued (.reply payload)

/-- From `s` to `t` a STATUS has been requested (R154, R155, R157): the report timer starts again; a waiting marker stays the
only one; else a marker joins, in flight where the queue was empty (with a deferral where the line is busy), or in the place of the
newest of four REPLYs, which is dropped and counted. A STATUS in flight whose frame is fixed is then no longer the newest. -/
def State.requestedTo (s t : State) : Prop :=
  t.line.reportTimer = 0 ∧
  (s.line.flight = none → s.line.waiting = [] →
    t.line.flight = some ⟨.status, none, 0⟩ ∧ t.line.access = .defer ∧ t.line.waiting = [] ∧
    s.deferred (s.busyAfter 0) t) ∧
  (s.line.flight ≠ none →
    t.line.flight = s.line.flight ∧ t.counters.deferrals = s.counters.deferrals ∧
    (.status ∈ s.line.waiting → t.line.waiting = s.line.waiting) ∧
    (.status ∉ s.line.waiting → s.line.waiting.length < 4 → t.line.waiting = s.line.waiting ++ [.status]) ∧
    (.status ∉ s.line.waiting → 4 ≤ s.line.waiting.length →
      t.line.waiting = s.line.waiting.dropLast ++ [.status] ∧
      t.counters.queueDrops = min (s.counters.queueDrops + 1) 65535)) ∧
  (∀ f, s.line.flight = some f → f.entry = .status → f.frame.isSome = true → t.line.newer = true)

/-- How many REPLYs DONE to RESTART stand in the transmit queue (R165, R180). -/
def State.restartReplies (s : State) : Nat :=
  (if s.line.flight.map Flight.entry = some (.reply [0x3F#8, 0x00#8]) then 1 else 0) +
    s.line.waiting.count (.reply [0x3F#8, 0x00#8])

/-- The frame the entry in flight is sent as: the one already fixed, else one formed now (R158, R168). -/
def State.flightFrame (s : State) (f : Flight) : List Byte :=
  match f.frame, f.entry with
  | some frame, _ => frame
  | none, .status =>
    frameOf kindStatus (stationByte s.node.station) 255 (byte s.line.ownSeq)
      (statusPayload s.ownReport s.pumps.p1.state s.pumps.p2.state s.pumps.p1.cause s.pumps.p2.cause)
  | none, .reply p => frameOf kindReply (stationByte s.node.station) 0 0 p

/-- The state with the first character of an attempt on the line after `d` microseconds (R151, R159, R161). -/
def State.attemptBegun (s : State) (f : Flight) (d : Time) : State :=
  let u := s.elapse d
  { u with
    line := { u.line with
      flight := some { f with frame := some (s.flightFrame f), sent := 1 }
      access := .none, silence := 0, sinceOwn := 0, lastChar := .own, echo := true
      rx := some ⟨[byteAt (s.flightFrame f) 0], 1, false⟩ } }

/-- The entry in flight has left the queue, and the oldest waiting entry, if any, is in flight (R154, R162, R164). -/
def State.flightLeft (s t : State) : Prop :=
  (s.line.waiting = [] → t.line.flight = none ∧ t.line.waiting = []) ∧
  (∀ e es, s.line.waiting = e :: es →
    t.line.flight = some ⟨e, none, 0⟩ ∧ t.line.waiting = es ∧ t.line.attempts = 0 ∧ t.line.newer = false ∧
    t.line.access = .defer)

/-- What else an entry's departure leaves: a deferral where the next one finds the line busy (R154); and with none waiting the
attempt count 0, no newer request and the access wait NONE, which are the model's (assumption log 54). -/
def State.departureLeaves (s : State) (busy : Prop) (t : State) : Prop :=
  (s.line.waiting ≠ [] → s.deferred busy t) ∧
  (s.line.waiting = [] →
    t.counters.deferrals = s.counters.deferrals ∧ t.line.attempts = 0 ∧ t.line.newer = false ∧ t.line.access = .none)

/-! ### Terms of the pumps, the gate and the lamps -/

/-- From `s` to `t` pump n has tripped (R81, R82): it is stopped with its trip counted, LOCKED at the lockout limit, else
TRIPPED, latched or with its retry timer at 0. -/
def State.tripTaken (n : PumpNo) (c : TripCause) (code : Nat) (s t : State) : Prop :=
  let r := s.pumps.get n
  let q := t.pumps.get n
  let pp := s.profile.pump n
  q.duty = 0 ∧ q.cause = c.asCause ∧ (0 < r.duty → q.rest = .counting 0) ∧ q.tripCount = min (r.tripCount + 1) 7 ∧
  (q.tripCount = pp.lockoutLimit → q.fault = .locked c ∧ q.state = .locked ∧ q.retry = none ∧ q.latched = false) ∧
  (q.tripCount ≠ pp.lockoutLimit →
    q.fault = .tripped c ∧ q.state = .tripped ∧ q.latched = pp.latch ∧ q.retry = if pp.latch then none else some 0) ∧
  t.counters.pumpTrips = min (s.counters.pumpTrips + 1) 65535 ∧
  t.stable =
    State.stable { s with
      pins := s.pins.withPumpCurrent n code
      pumps := s.pumps.put n
        { r with tripCount := q.tripCount, fault := q.fault, retry := q.retry, latched := q.latched }
      counters := { s.counters with pumpTrips := t.counters.pumpTrips } }

/-- The gate stands at the limit of `d` alone, at rest there or held there by the key (R115, R120). -/
def Gate.standsAt (g : Gate) (d : Dir) : Prop :=
  g.atTarget d = true ∧ g.atTarget d.opposite = false ∧
  ((g.keyDrive = none ∧ g.jam = none) ∨ g.keyDrive = some d)

/-- From `s` to `t` a gate with no limit of `d` active has begun a new motion toward `d` (R117): driven where the share reaches the
rated draw, HELD for want of it where not. -/
def State.newlyDriven (d : Dir) (s t : State) : Prop :=
  t.gate.dir = some d ∧ t.gate.travel = 0 ∧ t.gate.retries = s.profile.gate.stallRetries ∧ t.gate.backoff = none ∧
  (s.profile.gate.ratedDraw ≤ t.allot.shares.m → t.gate.state = d.moving ∧ t.gate.motor = some d) ∧
  (t.allot.shares.m < s.profile.gate.ratedDraw →
    t.gate.state = .held ∧ t.gate.holdCause = some .share ∧ t.gate.motor = none)

/-- The gate drives in direction `d` under a closure demand that stands (R114 line 4, R117), between its limits. -/
def State.drivenToward (d : Dir) (s : State) : Prop :=
  s.node.state.running = true ∧ s.profile.gate.present = true ∧
  s.gate.keyDrive = none ∧ s.gate.jam = none ∧ s.gate.commandHold = false ∧
  s.gate.openLimit.active = false ∧ s.gate.closedLimit.active = false ∧
  s.gate.dir = some d ∧ s.gate.state = d.moving ∧ s.closure.phase.gateDemand = some d ∧
  (d = .toOpen → s.originsFollow ∧ s.wanted = false)

/-- The output of a channel in step 3 of a tick (R132, R139): its record's, with the flash counters advanced. -/
def State.tickOutput (s : State) (i : Fin 8) : Nat :=
  (s.lamps.recs.get i).outputOf s.profile
    { s.lampView with
      amber := advance (amberPattern s.profile s.lamps.aspect) s.lamps.amberCounter
      guidance := advance (guidancePattern s.profile s.closure.phase) s.lamps.guidanceCounter }
    (s.profile.lamps.get i)

/-- The highest band whose threshold a code reaches (R133). -/
def highestBand (p : Profile) (code k : Nat) : Prop :=
  k ≤ 3 ∧ (1 ≤ k → ambientThreshold p k ≤ code) ∧ ∀ j, 1 ≤ j → j ≤ 3 → ambientThreshold p j ≤ code → j ≤ k

/-- How many lamps are out of service in `t` that were in service in `s` (R143). -/
def State.lampsLost (s t : State) : Nat :=
  (channels.filter fun i =>
    (s.lamps.recs.get i).health.inService && !(t.lamps.recs.get i).health.inService).length

/-- A lamp's record before and after the check of a tick (R141 to R143), at output `o` and current code `c`. -/
def LampRec.checked (p : Profile) (lp : LampProfile) (o c : Nat) (r q : LampRec) : Prop :=
  let limit := if lp.cls = .carriageway then p.openThreshold * o / 100 else p.openThreshold
  (o = 0 → q.health = r.health ∧ q.filterCount = r.filterCount ∧ q.shortRun = r.shortRun) ∧
  (o ≠ 0 → c < limit →
    q.filterCount = r.filterCount + 1 ∧ q.shortRun = 0 ∧
    (p.filterLimit ≤ r.filterCount + 1 → q.health = .failed) ∧
    (r.filterCount + 1 < p.filterLimit → q.health = if r.health = .ok then .suspect else r.health)) ∧
  (o ≠ 0 → limit ≤ c → p.shortThreshold < c →
    q.filterCount = 0 ∧ q.shortRun = min (r.shortRun + 1) 3 ∧
    (2 ≤ r.shortRun → q.health = .shorted) ∧
    (r.shortRun < 2 → q.health = if r.health = .suspect then .ok else r.health)) ∧
  (o ≠ 0 → limit ≤ c → c ≤ p.shortThreshold →
    q.filterCount = 0 ∧ q.shortRun = 0 ∧ q.health = if r.health = .suspect then .ok else r.health)

/-! ### What a step may change

The items that `kept` puts to one fixed value follow from others within an event. Each term here says, of the step from `s` to
`t`, by which rows and from which items one of them may change, and so that every other row leaves it. -/

/-- The row a step takes is one of those. -/
def State.takes (s : State) (rows : Instr → Bool) : Bool :=
  match s.pending with
  | c :: _ => rows c
  | [] => false

/-- The maintenance command in the open frame, where it carries one for this node (R151 to R153, R169). -/
def State.frameCommand (s : State) : Option MaintCommand :=
  match s.line.rx with
  | none => none
  | some f =>
    match validate f with
    | .good kind _ dest _ payload =>
      if s.line.echo = false ∧ kind = kindCommand ∧ (dest = stationByte s.node.station ∨ dest.toNat = 255) then
        match payloadForm payload with
        | .command c => some c
        | .unknown _ | .badLength _ => none
      else none
    | .formatError | .crcError => none

/-- A step may take a maintenance command: from its row, or from the frame that its row closes. -/
def State.mayTake (s : State) (c : MaintCommand) : Prop :=
  s.takes (fun i => decide (i = c.row .addressed ∨ i = c.row .broadcast)) = true ∨
  (s.takes (fun i => i matches .frameClose | .lineCharacter (.other _ _)) = true ∧ s.frameCommand = some c)

/-- The row is a sample (R1), under any of its names. -/
def Instr.isSample (i : Instr) : Bool :=
  i matches .sample _ | .sensorFaultSet _ | .sensorFaultClear _ | .floatChange _ | .calibrationComplete _

/-- The row is a lamp tick (R132), under any of its names. -/
def Instr.isTick (i : Instr) : Bool := i matches .lampTick _ | .lampFailed _ | .lampShorted _

/-- A step within LISTEN, ACTIVE, ISOLATED and CLASH. -/
def State.staysRunning (s t : State) : Prop := s.node.state.running = true ∧ t.node.state.running = true

/-- The own COMMAND origin is changed by CLOSE and REOPEN alone (R91, R105); in FALLBACK none is set (R110). -/
def State.commandStands (s t : State) : Prop :=
  (s.staysRunning t → ¬ s.mayTake .close → ¬ s.mayTake .reopen → t.closure.own.command = s.closure.own.command) ∧
  (s.node.state = .fallback → t.node.state = .fallback → s.closure.own.command = false →
    t.closure.own.command = false)

/-- The moves of the closure phase (R94 to R97, R99, R101, R102), and no other. -/
def State.phaseMoves (s t : State) : Prop :=
  let p := s.closure.phase
  let q := t.closure.phase
  let gateIs (d : GateState) := t.reportedGate = none ∨ t.reportedGate = some d
  s.staysRunning t → s.originsFollow →
    q = p ∨
    (p = .opened ∧ q = .warning ∧ t.wanted = true) ∨
    (p = .warning ∧ q = .opened ∧ t.wanted = false) ∨
    (p = .warning ∧ q = .stopping ∧ s.takes (fun i => i matches .warnTimerExpiry) = true) ∨
    (p = .stopping ∧ q = .clearing ∧ s.takes (fun i => i matches .clearanceTimerExpiry) = true) ∨
    (p = .clearing ∧ s.takes (fun i => i matches .presenceClear) = true ∧
      ((q = .sealing ∧ t.reportedGate ≠ none) ∨ (q = .sealed ∧ gateIs .closed))) ∨
    (p = .sealing ∧ q = .sealed ∧ t.reportedGate = some .closed) ∨
    ((p = .stopping ∨ p = .clearing ∨ p = .sealing ∨ p = .sealed) ∧ t.wanted = false ∧
      s.takes (fun i => i matches .reopenHoldExpiry) = true ∧
      ((q = .reopening ∧ t.reportedGate ≠ none) ∨ (q = .opened ∧ gateIs .opened))) ∨
    (p = .reopening ∧ t.wanted = true ∧ (q = .sealing ∨ (q = .sealed ∧ t.reportedGate = some .closed))) ∨
    (p = .reopening ∧ t.wanted = false ∧ q = .opened ∧ gateIs .opened)

/-- BLOCKED is set by MAX_CLEAR_EXPIRY and cleared where a REOPENING ends in OPEN and by CLEAR (R98, R101, R106), and by nothing
else. -/
def State.blockedStands (s t : State) : Prop :=
  let ends := t.closure.phase = .opened ∧ s.closure.phase ≠ .opened ∧ s.closure.phase ≠ .warning
  s.staysRunning t →
    (ends → t.closure.blocked = false) ∧
    (¬ ends → s.takes (fun i => i matches .maxClearExpiry) = true → s.closure.phase = .clearing →
      t.closure.blocked = true) ∧
    (¬ ends → (s.takes (fun i => i matches .maxClearExpiry) = false ∨ s.closure.phase ≠ .clearing) →
      t.closure.blocked = s.closure.blocked ∨ (s.mayTake .clear ∧ t.closure.blocked = false))

/-- A standing jam is set by a stall, by the travel maximum, by both limits or by a limit change (R121 to R123), and released by
CLEAR (R127), and by nothing else. -/
def State.jamStands (s t : State) : Prop :=
  s.staysRunning t →
    t.gate.jam = s.gate.jam ∨
    (t.gate.jam = some .stall ∧ s.takes (fun i => i matches .gateStall _) = true) ∨
    (t.gate.jam = some .travel ∧ s.takes (fun i => i matches .travelMaximum) = true) ∨
    (t.gate.jam = some .limits ∧
      (t.gate.bothLimits = true ∨ s.takes (fun i => i matches .limitChange _ _) = true)) ∨
    (t.gate.jam = none ∧ s.mayTake .clear)

/-- From `s` to `t` a new motion toward `d` has begun under the closure demand (R117): the gate was UNKNOWN, OPEN or CLOSED, or its
direction another. -/
def State.motionBegins (s t : State) (d : Dir) : Prop :=
  t.gate.keyDrive = none ∧ t.gate.jam = none ∧ t.gate.commandHold = false ∧ t.gate.demand = some d ∧
  t.gate.atTarget d = false ∧
  (s.gate.dir ≠ some d ∨ s.gate.state = .unknown ∨ s.gate.state = .opened ∨ s.gate.state = .closed)

/-- A new motion reloads the retries left and starts the travel anew (R117); but for it, a limit that becomes active or inactive
(R120), the key (R115), CLEAR (R127) and a stall, which takes one (R123), the retries left stand. -/
def State.retriesStand (s t : State) : Prop :=
  s.staysRunning t → s.profile.gate.present = true → s.gateFollows → s.gateDemandFollows →
    (∀ d, s.motionBegins t d → t.gate.retries = s.profile.gate.stallRetries ∧ t.gate.travel = 0) ∧
    ((∀ d, ¬ s.motionBegins t d) →
      (s.takes (fun i => i matches .limitChange _ _ | .keyTakeover _) = true ∨ s.mayTake .clear →
        t.gate.retries = s.gate.retries ∨ t.gate.retries = s.profile.gate.stallRetries) ∧
      (s.takes (fun i => i matches .gateStall _) = true →
        t.gate.retries = s.gate.retries ∨ t.gate.retries + 1 = s.gate.retries) ∧
      (s.takes (fun i => i matches .limitChange _ _ | .keyTakeover _ | .gateStall _) = false → ¬ s.mayTake .clear →
        t.gate.retries = s.gate.retries))

/-- A gate closure is counted where the gate becomes CLOSED from CLOSING or HELD without key drive (R120), also where it is driven
off again in the same event, at a limit change; and nowhere else. -/
def State.closuresStand (s t : State) : Prop :=
  let from' := (s.gate.state = .closing ∨ s.gate.state = .held) ∧ s.gate.keyDrive = none ∧ t.gate.keyDrive = none
  s.staysRunning t → s.gateFollows → ¬ s.mayTake .dumpAndZero →
    (s.profile.gate.present = true → from' → t.gate.state = .closed →
      t.counters.gateClosures = min (s.counters.gateClosures + 1) 65535) ∧
    (t.counters.gateClosures = s.counters.gateClosures ∨
      (from' ∧ t.gate.closedLimit.active = true ∧
        (t.gate.state = .closed ∨ s.takes (fun i => i matches .limitChange _ _) = true) ∧
        t.counters.gateClosures = min (s.counters.gateClosures + 1) 65535))

/-- A running sag-hold timer is stopped by SAG_HOLD_END alone, and started only where sag is seen (R47). -/
def State.sagStands (s t : State) : Prop :=
  s.staysRunning t →
    (s.allot.sagHold.isSome = true → s.takes (fun i => i matches .sagHoldEnd) = false → t.allot.sagHold.isSome = true) ∧
    (s.allot.sagHold = none → t.allot.sagHold.isSome = true → t.sagSeen = true)

/-- In FALLBACK the jam is that of both limits (R129). -/
def State.fallbackJam (s : State) : Prop :=
  s.node.state = .fallback → s.gate.jam = if s.gate.bothLimits then some .limits else none

/-- W and SETTLED are changed by LOOP_STEP, and by any other row only as the dry float and Wmax cut them (R67, R70). The lead role
passes to the other pump where W goes from above 0 to 0 with both pumps in the pool and able to lead, and where the lead can
lead no longer and the other can (R72; not to an ABSENT pump, assumption log 12), and nowhere else. -/
def State.wantMoves (s t : State) : Prop :=
  let swaps := 0 < s.pumps.want ∧ t.pumps.want = 0 ∧ ∀ n, t.pooled n = true ∧ t.canLead n
  let yields := ¬ t.canLead s.pumps.lead ∧ t.canLead s.pumps.lead.other
  (s.staysRunning t → s.wantsFollow →
    (s.takes (fun i => i matches .loopStep) = false →
      t.pumps.want = (if t.level.dry.debounced = .wet then min s.pumps.want t.wantMax else 0) ∧
      t.pumps.settled = (s.pumps.settled && decide (t.level.dry.debounced = .wet))) ∧
    (swaps ∨ yields → t.pumps.lead = s.pumps.lead.other) ∧
    (¬ swaps → ¬ yields → t.pumps.lead = s.pumps.lead)) ∧
  (s.node.state = .fallback → t.node.state = .fallback →
    t.pumps.want = s.pumps.want ∧ t.pumps.settled = s.pumps.settled ∧ t.pumps.lead = s.pumps.lead)

/-- The starts counter of a pump (R86). -/
def Counters.startsOf (c : Counters) : PumpNo → Nat
  | .one => c.pump1Starts
  | .two => c.pump2Starts

/-- The pump starts of a step are counted (R64, R86), stop the settle timer, set the armed indication and empty the collector
(R14 to R16); a stop that leaves both pumps at 0 starts the settle timer from 0; and without a start only a sample and CALIBRATE
change the armed indication and the collector. A sag change may bring a start and a stop of one pump in one step (R58, R77): that
start is counted too. -/
def State.startsHandedOn (s t : State) : Prop :=
  let stops := (∃ n, 0 < (s.pumps.get n).duty ∧ (t.pumps.get n).duty = 0) ∧ ∀ n, (t.pumps.get n).duty = 0
  s.node.state ≠ .start → t.node.state ≠ .start → ¬ s.mayTake .dumpAndZero →
    (∀ n, (s.pumps.get n).duty = 0 → 0 < (t.pumps.get n).duty →
      t.level.settle = none ∧ t.level.armed = true ∧ t.level.collector = ⟨false, 0, 0⟩ ∧
      t.counters.startsOf n = min (s.counters.startsOf n + 1) 65535) ∧
    (∀ n, 0 < (s.pumps.get n).duty → t.counters.startsOf n = s.counters.startsOf n) ∧
    (t.allot.sagHeld = s.allot.sagHeld →
      (∀ n, (t.pumps.get n).duty = 0 → t.counters.startsOf n = s.counters.startsOf n) ∧
      ((∀ n, (s.pumps.get n).duty = 0 → (t.pumps.get n).duty = 0) →
        (stops → t.level.settle = some 0) ∧
        (¬ stops → (s.level.settle = none → t.level.settle = none) ∧
          ∀ k, s.level.settle = some k → k ≤ s.profile.settleTime * 1000000 →
            ∃ j, t.level.settle = some j ∧ k ≤ j ∧ j ≤ s.profile.settleTime * 1000000) ∧
        (s.takes Instr.isSample = false → ¬ s.mayTake .calibrate →
          t.level.collector = s.level.collector ∧ t.level.armed = s.level.armed)))

/-- The flash counter of a group returns to 0 with a change of its aspect or phase; while its pattern stands and flashes, only a
tick changes it (R139). -/
def State.flashRestarts (s t : State) : Prop :=
  s.staysRunning t →
    (t.lamps.aspect ≠ s.lamps.aspect → t.lamps.amberCounter = 0) ∧
    (t.closure.phase ≠ s.closure.phase → t.lamps.guidanceCounter = 0) ∧
    (s.takes Instr.isTick = false →
      (t.lamps.aspect = s.lamps.aspect → flashing (amberPattern s.profile s.lamps.aspect) = true →
        t.lamps.amberCounter = s.lamps.amberCounter) ∧
      (t.closure.phase = s.closure.phase → flashing (guidancePattern s.profile s.closure.phase) = true →
        t.lamps.guidanceCounter = s.lamps.guidanceCounter))

/-- One of the items whose change makes a prompt report has changed (R157). -/
def State.reportChanges (s t : State) : Prop :=
  t.level.stage ≠ s.level.stage ∨ t.level.sensorFault ≠ s.level.sensorFault ∨ t.closure.own ≠ s.closure.own ∨
  t.closure.phase ≠ s.closure.phase ∨ t.reportedGate ≠ s.reportedGate ∨
  t.pumps.p1.state ≠ s.pumps.p1.state ∨ t.pumps.p1.cause ≠ s.pumps.p1.cause ∨
  t.pumps.p2.state ≠ s.pumps.p2.state ∨ t.pumps.p2.cause ≠ s.pumps.p2.cause ∨
  t.allot.ownSag ≠ s.allot.ownSag ∨ t.node.state ≠ s.node.state

/-- An own share is 10 LU or more from the same share of the last-sent shares (R157). -/
def State.sharesApart (s : State) : Prop :=
  let a := s.allot.shares
  let b := s.line.lastShares
  (a.t + 10 ≤ b.t ∨ b.t + 10 ≤ a.t) ∨ (a.m + 10 ≤ b.m ∨ b.m + 10 ≤ a.m) ∨
  (a.p + 10 ≤ b.p ∨ b.p + 10 ≤ a.p) ∨ (a.l + 10 ≤ b.l ∨ b.l + 10 ≤ a.l)

/-- A pass runs in the step from `s` to `t` (R43): the node state, an own demand, the own stage, the supply source, whether sag is
held, or a peer record's presence has changed, or a counted one's demands, stage or sag flag. -/
def State.passRuns (s t : State) : Prop :=
  t.node.state.running = true ∧
  (t.node.state ≠ s.node.state ∨ t.demands ≠ s.demands ∨ t.level.stage ≠ s.level.stage ∨
    t.allot.source ≠ s.allot.source ∨ t.allot.sagHold.isSome ≠ s.allot.sagHold.isSome ∨
    ∃ i, i ≠ s.node.station ∧
      ((t.picture.records.get i).presence ≠ (s.picture.records.get i).presence ∨
        (((t.picture.records.get i).presence = .fresh ∨ (t.picture.records.get i).presence = .stale) ∧
          ((t.picture.records.get i).report.demands ≠ (s.picture.records.get i).report.demands ∨
            (t.picture.records.get i).report.stage ≠ (s.picture.records.get i).report.stage ∨
            (t.picture.records.get i).report.flags.sag ≠ (s.picture.records.get i).report.flags.sag))))

/-- The prompt reports (R57, R157, R182): a change of a reported item, and the result of a pass, changed or not, with a share 10 LU
or more from the last-sent one, requests a STATUS within the step, which then stands in the queue with its frame not yet formed,
the report timer at 0; without a cause, and but for the report timer's expiry, no STATUS joins the queue. -/
def State.reports (s t : State) : Prop :=
  s.node.state ≠ .start → t.node.state.transmits = true →
    (s.reportChanges t ∨ (s.passRuns t ∧ t.sharesApart) ∨ (t.allot.shares ≠ s.allot.shares ∧ t.sharesApart) →
      t.line.reportTimer = 0 ∧ (.status ∈ t.line.waiting ∨ t.line.flight = some ⟨.status, none, 0⟩)) ∧
    (¬ s.reportChanges t → ¬ (s.passRuns t ∧ t.sharesApart) → s.takes (fun i => i matches .reportTimerExpiry) = false →
      t.queued .status → s.queued .status)

/-- The deferrals counter is raised only where an entry becomes in flight while the line is busy with another station's character
(R154). -/
def State.deferralsStand (s t : State) : Prop :=
  s.node.state ≠ .start → t.node.state ≠ .start → ¬ s.mayTake .dumpAndZero →
    t.counters.deferrals = s.counters.deferrals ∨
    (t.counters.deferrals = min (s.counters.deferrals + 1) 65535 ∧ t.line.lastChar = .other ∧ t.line.silence < 320 ∧
      t.line.access = .defer ∧ ∃ e, t.line.flight = some ⟨e, none, 0⟩)

/-- The row is an addressed maintenance command, or one that may close the frame of one (R168). -/
def Instr.mayReply (i : Instr) : Bool :=
  match i with
  | .frameClose | .lineCharacter (.other _ _) | .close .addressed | .reopen .addressed | .gateStop .addressed
  | .gateRelease .addressed | .pumpManual .addressed _ _ | .pumpAuto .addressed _ | .lampManual .addressed _ _
  | .lampAuto .addressed _ | .calibrate .addressed | .clear .addressed | .query .addressed _ | .dump .addressed
  | .dumpAndZero .addressed | .restart .addressed => true
  | _ => false

/-- The queue drops counter is raised where a STATUS marker takes the place of the newest of four REPLYs (R155), where a REPLY finds
four entries waiting, or three before the marker its own event brings (R156), and nowhere else. -/
def State.dropsStand (s t : State) : Prop :=
  let taken := .status ∉ s.line.waiting ∧ 4 ≤ s.line.waiting.length ∧ .status ∈ t.line.waiting
  let refused :=
    s.takes Instr.mayReply = true ∧
    (4 ≤ s.line.waiting.length ∨
      (s.line.waiting.length = 3 ∧ .status ∉ s.line.waiting ∧ .status ∈ t.line.waiting))
  s.node.state ≠ .start → t.node.state ≠ .start → ¬ s.mayTake .dumpAndZero →
    (taken → t.counters.queueDrops = s.counters.queueDrops → s.counters.queueDrops = 65535) ∧
    (t.counters.queueDrops = s.counters.queueDrops ∨
      ((taken ∨ refused) ∧ t.counters.queueDrops = min (s.counters.queueDrops + 1) 65535) ∨
      (taken ∧ refused ∧ t.counters.queueDrops = min (s.counters.queueDrops + 2) 65535))

end Sys2Proof.Machine
end

