-- ==== Sys2Proof/Certificates/Slice0/Obligations.lean ====
section
/-! DEFINITION. The statements for the provers. Each is one def Obligations.<Name> : Prop; OBLIGATIONS.json lists them with
the rule each formalises. `stable` (Sys2Proof/Safety.lean) is the frame: two states with the same `stable` differ only in
times and in what follows from other items within an event. -/

open Sys2Proof Sys2Proof.Machine

/-! ### The machine -/

/-- A step with a command at the front of the queue is that command's meaning on the rest of the queue (the task's rule for
a block; assumption log 31); on an empty queue it lets half a character time pass and changes times only (assumption
log 2). -/
def Obligations.StepRunsFrontCommand : Prop :=
  ∀ s : State,
    (∀ (c : Instr) (rest : List Instr), step { s with pending := c :: rest } = exec c { s with pending := rest }) ∧
    (s.pending = [] → ∃ t, step s = .next t ∧ t = s.elapse 80 ∧ t.timeless = s.timeless)

/-- Every command in every state is answered by a next state: nothing faults and nothing is refused. That a command with no
occasion, and one with operands the part cannot read, are answered so is the model's choice (assumption logs 7 and 44). -/
def Obligations.EveryCommandAnswersNext : Prop :=
  ∀ (c : Instr) (s : State), ∃ t, exec c s = .next t

/-- The state right after reset: START has begun, nothing drives, every block is at its start values. -/
def Obligations.ResetStandsInStart : Prop :=
  let s := State.reset
  s.node.state = .start ∧ s.pending = [] ∧
  s.level.level = 65535 ∧ s.level.ring = [] ∧ s.level.sensorFault = false ∧ s.level.drift = false ∧ s.level.armed = true ∧
  (∀ i, (s.picture.records.get i).presence = .absent) ∧ s.picture.expired = false ∧
  s.allot.usable = 0 ∧ s.allot.shares = Demands.zero ∧ s.allot.overrun = false ∧ s.allot.sagHold = none ∧
  s.allot.ownSag = false ∧
  s.pumps.p1.duty = 0 ∧ s.pumps.p2.duty = 0 ∧ s.pumps.want = 0 ∧ s.pumps.lead = .one ∧
  s.closure.own = Origins.empty ∧ s.closure.blocked = false ∧ s.closure.reopenHold = none ∧
  s.gate.motor = none ∧ s.gate.commandHold = false ∧ s.gate.keyDrive = none ∧
  (∀ i, (s.lamps.recs.get i).output = if i = 3 ∨ i = 4 then 100 else 0) ∧
  s.line.waiting = [] ∧ s.line.flight = none ∧ s.line.ownSeq = 0 ∧ s.line.rx = none ∧
  s.restartPending = false ∧ s.counters = Counters.zero

/-- The properties every step keeps hold of the state after reset. -/
def Obligations.InvariantsHoldAtReset : Prop :=
  State.reset.countersInRange ∧ State.reset.queueInRange ∧ State.reset.retentionFollows ∧ State.reset.wantedIsClosing ∧
  State.reset.motorHasShare ∧ State.reset.drawWithinShare ∧ State.reset.greenOnlyOpen ∧ State.reset.sharesWithin ∧
  State.reset.originsFollow ∧ State.reset.gateDemandFollows ∧ State.reset.wantsFollow ∧ State.reset.pumpsFollow ∧
  State.reset.demandsFollow ∧ State.reset.lampsFollow ∧ State.reset.usableFollows ∧ State.reset.sharesFollow ∧
  State.reset.fallbackJam ∧ State.reset.closureFollows ∧ State.reset.gateFollows ∧ State.reset.sagFollows

/-! ### What every step keeps -/

/-- R178: every counter stays within 0 to 65535, over every step, with what keeps it so through a start. -/
def Obligations.StepKeepsCountersInRange : Prop :=
  ∀ s t : State, s.countersInRange → step s = .next t → t.countersInRange

/-- R43, R57, R154 to R157, R182: at most four entries wait, at most one of them a STATUS marker, over every step; and in a step
a change of a reported item, or the result of a pass with a share 10 LU or more from the last-sent one, requests a STATUS,
nothing else but the report timer's expiry does, the deferrals counter rises only where an entry becomes in flight on a busy
line, and the queue drops counter only where an entry finds no place. -/
def Obligations.StepKeepsQueueInRange : Prop :=
  ∀ s t : State, step s = .next t →
    (s.queueInRange → t.queueInRange) ∧ s.reports t ∧ s.deferralsStand t ∧ s.dropsStand t

/-- R188: outside START the domain holds its owners' items with a matching check, over every step. -/
def Obligations.StepKeepsRetention : Prop :=
  ∀ s t : State, s.retentionFollows → step s = .next t → t.retentionFollows

/-- R94 to R99, R101, R102, R106: while closure is wanted the phase is neither OPEN nor REOPENING, over every step; WARNING ends
with the end of closure, SEALING with the gate CLOSED and REOPENING with it OPEN, and the reopen hold timer runs exactly while
closure is not wanted in the four phases it governs, over every step; and in a step the phase makes the moves of those rules
alone, and BLOCKED changes only as R98, R101 and R106 have it. -/
def Obligations.StepKeepsWantedClosing : Prop :=
  ∀ s t : State, step s = .next t →
    (s.wantedIsClosing → t.wantedIsClosing) ∧ (s.originsFollow → s.closureFollows → t.closureFollows) ∧ s.phaseMoves t ∧ s.blockedStands t

/-- R111, R114 to R122, R125, R129: without key drive the motor runs only with its whole share, over every step; and the gate
follows the authority table of R114 under the MOTION share that stands, and the key (stalled or barred: assumption logs 16 and
48), and in FALLBACK the limits and the key alone, over every step. -/
def Obligations.StepKeepsMotorShare : Prop :=
  ∀ s t : State, step s = .next t → (s.motorHasShare → t.motorHasShare) ∧ (s.gateFollows → t.gateFollows)

/-- R74: the pumps in AUTO and REMOTE MANUAL draw no more than the PUMPING share, over every step. -/
def Obligations.StepKeepsDrawWithinShare : Prop :=
  ∀ s t : State, s.drawWithinShare → step s = .next t → t.drawWithinShare

/-- R137: green is shown only in OPEN with the gate OPEN or none, over every step. -/
def Obligations.StepKeepsGreenOnlyOpen : Prop :=
  ∀ s t : State, s.greenOnlyOpen → step s = .next t → t.greenOnlyOpen

/-- R56: the shares stay within the demands and within the usable capacity, over every step. -/
def Obligations.StepKeepsSharesWithin : Prop :=
  ∀ s t : State, s.sharesWithin → step s = .next t → t.sharesWithin

/-- R89 to R91, R105, R110: the own LEVEL and OUTSIDE origins follow the stage and the filtered detector, over every step; and
the own COMMAND origin is changed in a step by CLOSE and REOPEN alone. -/
def Obligations.StepKeepsOriginsFollow : Prop :=
  ∀ s t : State, step s = .next t → (s.originsFollow → t.originsFollow) ∧ s.commandStands t

/-- R104, R117, R120 to R123, R127, R129: the gate controller holds the demand of the phase, over every step, and in FALLBACK
the jam of both limits alone; in a step a jam is set by a stall, the travel maximum or the limits and released by CLEAR, and by
nothing else; the retries left are reloaded by a new motion, the key and CLEAR, taken by a stall, and stand elsewhere; and a
gate closure is counted where the gate becomes CLOSED from CLOSING or HELD without key drive, and nowhere else. -/
def Obligations.StepKeepsGateDemand : Prop :=
  ∀ s t : State, step s = .next t →
    (s.gateDemandFollows → t.gateDemandFollows) ∧ (s.fallbackJam → t.fallbackJam) ∧ s.jamStands t ∧ s.retriesStand t ∧
    s.closuresStand t

/-- R67, R70 to R72, R85: W stays within the pool and 0 without a WET dry float, the lead stands at a pump that can lead, and the
pumps' wants are W's split, over every step; in a step other than LOOP_STEP, W and SETTLED stand but for those cuts, and the lead
role moves by its swap and its yield alone; and what the pool and the split are, in every state, with the want of a REMOTE MANUAL
pump (TRIPPED and to retry: assumption log 51). That the lead role does not pass to an ABSENT pump is the model's (assumption log
12): R72 lists OFF, HAND, TRIPPED and LOCKED. -/
def Obligations.StepKeepsWants : Prop :=
  (∀ s t : State, step s = .next t → (s.wantsFollow → t.wantsFollow) ∧ s.wantMoves t) ∧
  ∀ (s : State) (n : PumpNo), s.splitIs n

/-- R14 to R16, R58, R63, R64, R66, R74, R77, R78, R86: both pumps follow the table of R63 under the ceilings of their share, over
every step; in a step no pump starts short of its rest time, nor, but for a pump in HAND, while sag is held, and a RUNNING pump that
may run on stays RUNNING; and the starts and stops of a step are counted and handed to the level monitor. -/
def Obligations.StepKeepsPumpTable : Prop :=
  ∀ s t : State, step s = .next t →
    (s.pumpsFollow → t.pumpsFollow ∧ s.startsAllowed t ∧ s.runningStays t) ∧ s.startsHandedOn t

/-- R66, R73, R112, R134, R135: the four own demands are those of the pump, gate and lamp controllers, over every step; and
what each controller's part is, in every state (an amber lamp under a pattern that never lights: assumption log 20; a gate stalled
under the key: assumption log 41). -/
def Obligations.StepKeepsDemands : Prop :=
  (∀ s t : State, s.demandsFollow → step s = .next t → t.demandsFollow) ∧
  ∀ s : State,
    s.pumps.p1.partsAre s.profile.pump1 ∧ s.pumps.p2.partsAre s.profile.pump2 ∧
    s.pumpStanding = s.pumps.p1.standingPart s.profile.pump1 + s.pumps.p2.standingPart s.profile.pump2 ∧
    s.gate.partsAre s.profile.gate ∧ s.lampPartsAre

/-- R131, R134, R136 to R140, R144: the lamps follow the stage, the phase, the gate and the LIGHTING share, over every step; in a
step the flash counters restart with a change of their aspect or phase, and stand outside a tick (by the aspect and the phase alone:
assumption log 60); and what the submerged
indications, the signal degraded flag, the aspect and the outputs are, in every state. -/
def Obligations.StepKeepsLamps : Prop :=
  (∀ s t : State, step s = .next t → (s.lampsFollow → t.lampsFollow) ∧ s.flashRestarts t) ∧ ∀ s : State, s.lampsAre

/-! ### Starts and supplies -/

/-- R183, R188: POWER_ON, BROWN_OUT_RECOVERY and RESET_PIN_RELEASE begin START where the supply then stands and the RESET pin is
released; else the node stands at rest and START does not begin. A frame in transmission is cut after its character under way. A
domain that had lost both supplies is lost (assumption log 10); a backup supply that the operand says is absent, with none
reported lost before, is lost once the main supply stands (assumption log 55), or with the main supply absent where that stays
so. -/
def Obligations.StartCommandsBeginStart : Prop :=
  ∀ (p : StartPins) (s : State), p.station ≤ 15 →
    (s.pins.resetHeld = false →
      ∃ t, exec (.powerOn p) s = .next t ∧ t.startBegun p ∧ s.frameCut t ∧
        t.pins = { s.pins.withStart p with mainSupply := true } ∧ t.spi = s.spi ∧ t.pending = s.pending ∧
        (s.pins.mainSupply = true ∧ s.pins.backup = false → t.retention.intact = false) ∧
        (s.pins.mainSupply = false ∨ s.pins.backup = true → t.retention = s.retention)) ∧
    (s.pins.resetHeld = false → s.pins.mainSupply = false →
      ∃ t, exec (.brownOutRecovery p) s = .next t ∧ t.startBegun p ∧ s.frameCut t ∧
        t.pins = { s.pins.withStart p with mainSupply := true } ∧ t.spi = s.spi ∧ t.pending = s.pending ∧
        t.retention = s.retention) ∧
    (s.pins.resetHeld = true → s.pins.mainSupply = true →
      ∃ t, exec (.resetPinRelease p) s = .next t ∧ t.startBegun p ∧ s.frameCut t ∧
        t.pins = { s.pins.withStart p with resetHeld := false } ∧ t.spi = s.spi ∧ t.pending = s.pending ∧
        t.retention = s.retention) ∧
    (s.pins.resetHeld = true → ∃ t, exec (.powerOn p) s = .next t ∧ t.standsAtRest ∧ s.frameCut t ∧ t.pins.resetHeld = true) ∧
    (s.pins.resetHeld = true → s.pins.mainSupply = false →
      ∃ t, exec (.brownOutRecovery p) s = .next t ∧ t.standsAtRest ∧ s.frameCut t ∧ t.pins.resetHeld = true) ∧
    (s.pins.resetHeld = true → s.pins.mainSupply = false →
      ∃ t, exec (.resetPinRelease p) s = .next t ∧ t.standsAtRest ∧ s.frameCut t ∧
        t.pins = { s.pins.withStart p with resetHeld := false } ∧
        (s.pins.backup = true ∧ p.backup = false → t.retention.intact = false) ∧
        (s.pins.backup = false ∨ p.backup = true → t.retention = s.retention))

/-- R183, R188: RESET_PIN_ASSERT and BROWN_OUT bring the node to rest at once, a frame in transmission cut after its character
under way; BROWN_OUT and BACKUP_SUPPLY_LOSS lose the domain where both supplies are then absent. What the lost domain reads as
is a free value (assumption log 9). -/
def Obligations.RestAndSupplyLoss : Prop :=
  ∀ s : State,
    (∃ t, exec .resetPinAssert s = .next t ∧ t.standsAtRest ∧ s.frameCut t ∧ t.pins = { s.pins with resetHeld := true } ∧
      t.retention = s.retention ∧ t.spi = s.spi ∧ t.pending = s.pending ∧ t.node.station = s.node.station) ∧
    (∃ t, exec .brownOut s = .next t ∧ t.standsAtRest ∧ s.frameCut t ∧ t.pins = { s.pins with mainSupply := false } ∧
      t.spi = s.spi ∧ t.pending = s.pending ∧ t.node.station = s.node.station ∧
      (s.pins.mainSupply = true ∧ s.pins.backup = false → t.retention.intact = false) ∧
      (s.pins.mainSupply = false ∨ s.pins.backup = true → t.retention = s.retention)) ∧
    (∃ t, exec .backupSupplyLoss s = .next t ∧
      t = { s with pins := { s.pins with backup := false }, retention := t.retention, freeIndex := t.freeIndex } ∧
      (s.pins.backup = true ∧ s.pins.mainSupply = false → t.retention.intact = false) ∧
      (s.pins.backup = false ∨ s.pins.mainSupply = true → t.retention = s.retention))

/-- R21, R61, R72, R88, R107, R108, R128, R130, R148, R178, R184 to R186, R190: END_OF_START with a valid profile enters LISTEN,
with the items each block takes there, timers that are stopped at 0 (assumption log 43), records that R41 leaves open
(assumption log 45) and the lead of two ABSENT pumps (assumption log 12). A START that a RESTART began reads its straps by its
end (assumption log 35). -/
def Obligations.EndOfStartEntersListen : Prop :=
  ∀ (r : StartReads) (s : State),
    r.station ≤ 15 → s.startUnderWay = true → s.strapAtZero r = false → recordOk r.record = true →
    ∃ t, exec (.endOfStart r) s = .next t ∧ s.strapsRead r t ∧
      t.node.state = .listen ∧ t.node.listenTimer = 0 ∧ t.node.profileValid = true ∧ t.node.readClock = 0 ∧
      t.node.retentionValid = s.node.retentionValid ∧
      t.profile = profileOf r.record ∧ t.spi = ⟨[3, 0, 0, 0], r.record⟩ ∧
      t.level = LevelMonitor.atStart
        (if s.node.retentionValid = true ∧
            absDiff s.retention.items.zeroCode (profileOf r.record).zeroNominal ≤ (profileOf r.record).driftLimit
          then s.retention.items.zeroCode else (profileOf r.record).zeroNominal) ∧
      (∀ i, i ≠ t.node.station → t.picture.records.get i = StationRecord.atStart) ∧ t.picture.expired = false ∧
      t.allot.source = (if r.generator then .generator else .mains) ∧ t.allot.ownSag = false ∧ t.allot.sagHold = none ∧
      t.allot.underRun = 0 ∧ t.allot.recoverRun = 0 ∧ t.allot.usable = (profileOf r.record).localAllowance ∧
      t.pumps.p1.starts (profileOf r.record).pump1 s.node.retentionValid s.retention.items.pump1 ∧
      t.pumps.p2.starts (profileOf r.record).pump2 s.node.retentionValid s.retention.items.pump2 ∧
      t.pumps.want = 0 ∧ t.pumps.settled = false ∧ t.pumps.loopTimer = 0 ∧
      (∀ n, n = (if s.node.retentionValid then s.retention.items.lead else .one) →
        t.pumps.lead =
          if ((profileOf r.record).pump n).present = false ∧ ((profileOf r.record).pump n.other).present = true
          then n.other else n) ∧
      s.closureStarts t ∧
      ((profileOf r.record).gate.present = true → s.gateStarts r t) ∧
      ((profileOf r.record).gate.present = false → t.reportedGate = none ∧ t.gate.motor = none) ∧
      t.gate.openLimit = ⟨r.openLimit, 0⟩ ∧ t.gate.closedLimit = ⟨r.closedLimit, 0⟩ ∧ t.gate.key = ⟨.auto, none, 0⟩ ∧
      (∀ i, (t.lamps.recs.get i).health =
        if s.node.retentionValid = true ∧ ((profileOf r.record).lamps.get i).cls ≠ .unused
          then s.retention.items.healths.get i else .ok) ∧
      t.line.ownSeq = 0 ∧ t.line.flight = some ⟨.status, none, 0⟩ ∧ t.line.access = .defer ∧ t.line.waiting = [] ∧
      t.restartPending = false ∧
      t.counters.kept = (if s.node.retentionValid then s.retention.items.counters else Counters.zero).kept ∧
      t.pending = s.pending ∧ t.freeIndex = s.freeIndex

/-- R60, R87, R110, R129, R147, R184 to R186, R189, R193: END_OF_START with no valid profile enters FALLBACK, with its fixed
behaviour. The stored demands are those its STATUS carries (assumption log 14), a stopped timer is at 0 (assumption log 43), and
records hold what R41 leaves open (assumption log 45). A START that a RESTART began reads its straps by its end (assumption
log 35). -/
def Obligations.EndOfStartEntersFallback : Prop :=
  ∀ (r : StartReads) (s : State),
    r.station ≤ 15 → s.startUnderWay = true → (s.strapAtZero r = true ∨ recordOk r.record = false) →
    ∃ t, exec (.endOfStart r) s = .next t ∧ s.strapsRead r t ∧
      t.node.state = .fallback ∧ t.node.listenTimer = 0 ∧ t.node.profileValid = false ∧ t.node.readClock = 0 ∧
      t.node.retentionValid = s.node.retentionValid ∧
      t.spi = (if s.strapAtZero r then s.spi else ⟨[3, 0, 0, 0], r.record⟩) ∧
      t.level.level = 65535 ∧ t.level.stage = .dry ∧ t.level.sensorFault = false ∧
      (∀ i, t.picture.records.get i = StationRecord.atStart) ∧
      t.allot.usable = 0 ∧ t.allot.shares = Demands.zero ∧ t.allot.ownSag = false ∧ t.allot.sagHold = none ∧
      t.demands = ⟨255, 0, 255, 0⟩ ∧
      t.closure.phase = .stopping ∧ t.closure.own = Origins.empty ∧ t.gate.motor = none ∧
      t.gate.state =
        (if r.openLimit && r.closedLimit then .jammed else if r.closedLimit then .closed
          else if r.openLimit then .opened else .unknown) ∧
      t.pumps.p1.duty = 0 ∧ t.pumps.p2.duty = 0 ∧
      t.pumps.p1.fault = (if s.node.retentionValid then s.retention.items.pump1.fault else .none) ∧
      t.pumps.p2.fault = (if s.node.retentionValid then s.retention.items.pump2.fault else .none) ∧
      (∀ i, (t.lamps.recs.get i).output =
        if (t.lamps.recs.get i).health.inService = false then 0 else if i = 1 ∨ i = 2 then 0 else 100) ∧
      t.lamps.aspect = .red ∧
      t.line.ownSeq = 0 ∧ t.line.flight = some ⟨.status, none, 0⟩ ∧ t.line.waiting = [] ∧ t.restartPending = false ∧
      t.retention.intact = true ∧
      t.retention.items.zeroCode = (if s.node.retentionValid then s.retention.items.zeroCode else 65535) ∧
      t.retention.items.phaseCode = (if s.node.retentionValid then s.retention.items.phaseCode else 0) ∧
      t.retention.items.command = (s.node.retentionValid && s.retention.items.command) ∧
      t.pending = s.pending ∧ t.freeIndex = s.freeIndex

/-! ### Sump level and flood stage -/

/-- R2 to R6, R15, R16, R18, R83: what SAMPLE makes of the code, of the collector and of the dry-stage timer while SENSOR FAULT is
clear, and what it leaves as it was. That an out-of-range code leaves a level standing is the model's reading (assumption log 28);
so is that the time the sample still lacks passes within the row (assumption log 1), and that the first DRY sample starts the
dry-stage timer (assumption log 30). -/
def Obligations.SampleTakesCode : Prop :=
  ∀ (r : SampleReads) (s : State),
    s.node.state.running = true → s.restartPending = false → s.level.sensorFault = false →
    ∃ t, exec (.sample r) s = .next t ∧ t.level.sampleTimer = 0 ∧
      (s.level.zeroCode ≤ r.code + 80 → r.code ≤ 4050 →
        t.level.sensorFault = false ∧ t.level.outRun = 0 ∧ t.level.ring = enteredRing s.level.ring r.code ∧
        (t.level.ring.length ≠ 8 → t.level.level = 65535) ∧
        (t.level.ring.length = 8 →
          t.level.level = convertedLevel s.profile s.level.zeroCode t.level.ring)) ∧
      (r.code + 80 < s.level.zeroCode ∨ 4050 < r.code → s.level.outRun < 2 →
        t.level.sensorFault = false ∧ t.level.outRun = s.level.outRun + 1 ∧ t.level.ring = s.level.ring ∧
        (s.level.ring.length ≠ 8 → t.level.level = 65535) ∧
        (s.level.ring.length = 8 → t.level.level = s.level.level)) ∧
      (r.code + 80 < s.level.zeroCode ∨ 4050 < r.code → 2 ≤ s.level.outRun →
        t.level.sensorFault = true ∧ t.level.outRun = 3 ∧ t.level.ring = [] ∧ t.level.recoveryRun = 0 ∧
        t.level.level = 65535) ∧
      (¬ s.collectionEnds r t → s.calibrationStands t) ∧ s.collectorAfter r t ∧ s.dryStageAfter t ∧
      t.stable =
        State.stable { s with
          pins := s.pins.withSample r
          level := t.level
          pumps := { s.pumps with dryStage := t.pumps.dryStage }
          counters := { s.counters with calAccepted := t.counters.calAccepted, calRejected := t.counters.calRejected } }

/-- R7, R15, R16, R18, R83: what SAMPLE makes of the code, of the collector and of the dry-stage timer while SENSOR FAULT is set.
The time the sample still lacks passes within the row (assumption log 1); the first DRY sample starts the dry-stage timer
(assumption log 30). -/
def Obligations.SampleRecovers : Prop :=
  ∀ (r : SampleReads) (s : State),
    s.node.state.running = true → s.restartPending = false → s.level.sensorFault = true →
    ∃ t, exec (.sample r) s = .next t ∧
      (s.level.zeroCode ≤ r.code + 80 → r.code ≤ 4050 → s.level.recoveryRun < 7 →
        t.level.sensorFault = true ∧ t.level.outRun = 0 ∧ t.level.recoveryRun = s.level.recoveryRun + 1 ∧
        t.level.ring = enteredRing s.level.ring r.code ∧ t.level.level = 65535) ∧
      (s.level.zeroCode ≤ r.code + 80 → r.code ≤ 4050 → 7 ≤ s.level.recoveryRun →
        t.level.sensorFault = false ∧ t.level.outRun = 0 ∧ t.level.recoveryRun = 0 ∧
        t.level.ring = enteredRing s.level.ring r.code ∧
        (t.level.ring.length = 8 →
          t.level.level = convertedLevel s.profile s.level.zeroCode t.level.ring)) ∧
      (r.code + 80 < s.level.zeroCode ∨ 4050 < r.code →
        t.level.sensorFault = true ∧ t.level.outRun = min (s.level.outRun + 1) 3 ∧ t.level.recoveryRun = 0 ∧
        t.level.ring = [] ∧ t.level.level = 65535) ∧
      (¬ s.collectionEnds r t → s.calibrationStands t) ∧ s.collectorAfter r t ∧ s.dryStageAfter t ∧
      t.stable =
        State.stable { s with
          pins := s.pins.withSample r
          level := t.level
          pumps := { s.pumps with dryStage := t.pumps.dryStage }
          counters := { s.counters with calAccepted := t.counters.calAccepted, calRejected := t.counters.calRejected } }

/-- R8, R10 to R12: the floats and the stage at the end of a sample. -/
def Obligations.SampleFormsStage : Prop :=
  ∀ (r : SampleReads) (s : State),
    s.node.state.running = true → s.restartPending = false →
    ∃ t, exec (.sample r) s = .next t ∧
      s.level.dry.tookRead r.dryFloatWet t.level.dry ∧ s.level.high.tookRead r.highFloatWet t.level.high ∧
      (t.level.level = 65535 →
        t.level.stage =
          if t.level.high.debounced = .wet then .flood
          else if t.level.dry.debounced = .wet then .rising else .dry) ∧
      (t.level.level ≠ 65535 → ∃ k ls : Nat,
        k ≤ 4 ∧ (1 ≤ k → s.profile.threshold k ≤ t.level.level) ∧
        (∀ j, 1 ≤ j → j ≤ 4 → s.profile.threshold j ≤ t.level.level → j ≤ k) ∧
        (s.level.stage.num < k → ls = k) ∧
        (k ≤ s.level.stage.num → 1 ≤ s.level.stage.num →
          t.level.level + s.profile.hysteresis < s.profile.threshold s.level.stage.num →
            ls = s.level.stage.num - 1) ∧
        (k ≤ s.level.stage.num →
          (s.level.stage.num = 0 ∨
            s.profile.threshold s.level.stage.num ≤ t.level.level + s.profile.hysteresis) →
            ls = s.level.stage.num) ∧
        t.level.stage.num =
          max ls (if t.level.high.debounced = .wet then 3 else if t.level.dry.debounced = .wet then 1 else 0))

/-- R20, R87, R89, R110: in FALLBACK a sample reads the floats and takes the stage from them, the own LEVEL origin follows the
stage, and pump 1, not tripped or locked and with its switch at AUTO, starts when the high float becomes WET and stops when the
dry float becomes DRY (where both come at once it stops, assumption log 15); in START none is taken. -/
def Obligations.SampleOutsideRunning : Prop :=
  ∀ (r : SampleReads) (s : State),
    (s.node.state = .start → exec (.sample r) s = .next s) ∧
    (s.node.state = .fallback → s.restartPending = false →
      ∃ t, exec (.sample r) s = .next t ∧
        s.level.dry.tookRead r.dryFloatWet t.level.dry ∧ s.level.high.tookRead r.highFloatWet t.level.high ∧
        t.level.stage =
          (if t.level.high.debounced = .wet then .flood
            else if t.level.dry.debounced = .wet then .rising else .dry) ∧
        t.closure.own = ⟨decide (t.level.stage = .flood ∨ t.level.stage = .submerged), false, false⟩ ∧
        (s.pumps.p1.fault = .none → s.pumps.p1.switch.debounced = .auto →
          (s.level.dry.debounced ≠ .dry → t.level.dry.debounced = .dry →
            t.pumps.p1.state = .idle ∧ t.pumps.p1.duty = 0) ∧
          ((s.level.dry.debounced = .dry ∨ t.level.dry.debounced ≠ .dry) →
            (s.level.high.debounced ≠ .wet → t.level.high.debounced = .wet →
              t.pumps.p1.state = .running ∧ t.pumps.p1.duty = 100) ∧
            ((s.level.high.debounced = .wet ∨ t.level.high.debounced ≠ .wet) →
              (s.pumps.p1.state = .running → t.pumps.p1.state = .running ∧ t.pumps.p1.duty = 100) ∧
              (s.pumps.p1.state ≠ .running → t.pumps.p1.state = .idle ∧ t.pumps.p1.duty = 0)))) ∧
        (s.pumps.p2.fault = .none → s.pumps.p2.switch.debounced = .auto →
          t.pumps.p2.state = .idle ∧ t.pumps.p2.duty = 0) ∧
        t.stable =
          State.stable { s with
            pins := s.pins.withSample r
            level := { s.level with dry := t.level.dry, high := t.level.high, stage := t.level.stage } })

/-- R6, R7, R8: SENSOR_FAULT_SET, SENSOR_FAULT_CLEAR and, in FALLBACK too, FLOAT_CHANGE at the samples at which their events come
about, which they take whole (assumption log 6). -/
def Obligations.SampleEventsComeAbout : Prop :=
  ∀ (r : SampleReads) (s : State), s.node.state ≠ .start → s.restartPending = false →
    (s.node.state.running = true → s.level.sensorFault = false → (r.code + 80 < s.level.zeroCode ∨ 4050 < r.code) → 2 ≤ s.level.outRun →
      ∃ t, exec (.sensorFaultSet r) s = .next t ∧ exec (.sample r) s = .next t ∧ t.level.sensorFault = true ∧
        t.level.level = 65535 ∧ t.level.ring = []) ∧
    (s.node.state.running = true → s.level.sensorFault = true → s.level.zeroCode ≤ r.code + 80 → r.code ≤ 4050 →
      7 ≤ s.level.recoveryRun →
      ∃ t, exec (.sensorFaultClear r) s = .next t ∧ exec (.sample r) s = .next t ∧ t.level.sensorFault = false ∧
        t.level.recoveryRun = 0) ∧
    (s.level.dry.candidate = some r.dryFloatWet → 2 ≤ s.level.dry.count →
      s.level.dry.debounced ≠ (if r.dryFloatWet then .wet else .dry) →
      ∃ t, exec (.floatChange r) s = .next t ∧ exec (.sample r) s = .next t ∧
        t.level.dry.debounced = if r.dryFloatWet then .wet else .dry) ∧
    (s.level.high.candidate = some r.highFloatWet → 2 ≤ s.level.high.count →
      s.level.high.debounced ≠ (if r.highFloatWet then .wet else .dry) →
      ∃ t, exec (.floatChange r) s = .next t ∧ exec (.sample r) s = .next t ∧
        t.level.high.debounced = if r.highFloatWet then .wet else .dry)

/-- R15, R18, R19: a collection completes at the sample that brings its count to the calibration count with the conditions held
and the code in range; CALIBRATION_COMPLETE is that sample, which it takes whole (assumption log 6; the time the sample lacks
passes within it, assumption log 1), and no other; the new zero is judged. -/
def Obligations.CalibrationCompletes : Prop :=
  ∀ (r : SampleReads) (s : State), s.node.state.running = true → s.restartPending = false →
    ∃ t, exec (.sample r) s = .next t ∧
      (¬ s.collectionEnds r t → exec (.calibrationComplete r) s = .next s ∧ s.calibrationStands t) ∧
      (s.collectionEnds r t →
        exec (.calibrationComplete r) s = .next t ∧ t.level.collector = ⟨false, 0, 0⟩ ∧
        (absDiff ((s.level.collector.sum + r.code) / s.profile.calibrationCount) s.profile.zeroNominal ≤
            s.profile.driftLimit →
          t.level.zeroCode = (s.level.collector.sum + r.code) / s.profile.calibrationCount ∧ t.level.drift = false ∧
          t.counters.calAccepted = min (s.counters.calAccepted + 1) 65535 ∧
          t.counters.calRejected = s.counters.calRejected) ∧
        (s.profile.driftLimit <
            absDiff ((s.level.collector.sum + r.code) / s.profile.calibrationCount) s.profile.zeroNominal →
          t.level.zeroCode = s.level.zeroCode ∧ t.level.drift = true ∧
          t.counters.calRejected = min (s.counters.calRejected + 1) 65535 ∧
          t.counters.calAccepted = s.counters.calAccepted))

/-! ### The bay picture -/

/-- R30, R31: a FRESH peer record becomes STALE, with its fields kept; a STALE one becomes GONE, with its origins made
sticky. -/
def Obligations.RecordsAge : Prop :=
  ∀ (st : Fin 15) (s : State),
    s.node.state.running = true → s.restartPending = false → st ≠ s.node.station →
    ((s.picture.records.get st).presence = .fresh →
      ∃ t, exec (.recordStale st) s = .next t ∧ (t.picture.records.get st).presence = .stale ∧
        (t.picture.records.get st).report = (s.picture.records.get st).report ∧
        t.stable =
          State.stable { s with
            picture := s.picture.put st { s.picture.records.get st with presence := .stale } }) ∧
    ((s.picture.records.get st).presence = .stale →
      ∃ t, exec (.recordGone st) s = .next t ∧ (t.picture.records.get st).presence = .gone ∧
        (t.picture.records.get st).sticky = some (s.picture.records.get st).report.origins ∧
        t.stable =
          State.stable { s with
            picture := s.picture.put st
              { s.picture.records.get st with
                presence := .gone, sticky := some (s.picture.records.get st).report.origins } })

/-- R38, R39, R190, R191: LINE_SILENCE_EXPIRY takes ACTIVE to ISOLATED and leaves ISOLATED and CLASH, the timer then staying
expired; LISTEN_TIMER_EXPIRY takes LISTEN to ACTIVE, with its timer stopped, at 0 (assumption log 43). -/
def Obligations.NodeTimersExpire : Prop :=
  ∀ s : State, s.restartPending = false →
    (s.node.state = .listen →
      ∃ t, exec .listenTimerExpiry s = .next t ∧ t.node.state = .active ∧ t.node.listenTimer = 0 ∧
        t.stable = State.stable { s with node := { s.node with state := .active } }) ∧
    (s.node.state = .active → s.picture.expired = false →
      ∃ t, exec .lineSilenceExpiry s = .next t ∧ t.node.state = .isolated ∧ t.picture.expired = true ∧
        t.allot.usable = s.profile.localAllowance ∧
        t.stable =
          State.stable { s with
            node := { s.node with state := .isolated }, picture := { s.picture with expired := true } }) ∧
    ((s.node.state = .isolated ∨ s.node.state = .clash) → s.picture.expired = false →
      ∃ t, exec .lineSilenceExpiry s = .next t ∧ t.node.state = s.node.state ∧ t.picture.expired = true ∧
        t.stable = State.stable { s with picture := { s.picture with expired := true } })

/-- R23, R25 to R28, R38, R153, R191: FRAME_CLOSE of a valid STATUS from a peer: its record is filled, a duplicate is ignored, a
gap is counted, and ISOLATED goes to ACTIVE. The silence the close still lacks passes within it (assumption log 1). -/
def Obligations.FrameCloseTakesPeerStatus : Prop :=
  ∀ (f : RxFrame) (src dest seq : Byte) (payload : List Byte) (i : Fin 15) (s : State),
    s.node.state.running = true → s.restartPending = false → s.line.transmitting = false → s.line.echo = false →
    s.line.rx = some f → validate f = .good kindStatus src dest seq payload →
    src.toNat = i.val + 1 → i ≠ s.node.station →
    ∃ t, exec .frameClose s = .next t ∧ t.line.rx = none ∧ t.picture.expired = false ∧
      t.node.state = (if s.node.state = .isolated then .active else s.node.state) ∧
      (t.picture.records.get i).timeless =
        ((s.picture.records.get i).after seq.toNat (reportOf payload)).timeless ∧
      (seq ≠ 0 → seq.toNat = (s.picture.records.get i).lastSeq →
        t.picture.records.get i = (s.elapse (240 - s.line.silence)).picture.records.get i) ∧
      ((seq = 0 ∨ seq.toNat ≠ (s.picture.records.get i).lastSeq) → (t.picture.records.get i).heard = 0) ∧
      ((s.picture.records.get i).gap seq.toNat → t.counters.statusGaps = min (s.counters.statusGaps + 1) 65535) ∧
      (¬ (s.picture.records.get i).gap seq.toNat → t.counters.statusGaps = s.counters.statusGaps) ∧
      t.stable =
        State.stable { s.heard with
          node := { s.node with state := t.node.state }
          picture := s.heard.picture.put i ((s.picture.records.get i).after seq.toNat (reportOf payload))
          counters := { s.heard.counters with statusGaps := t.counters.statusGaps } }

/-- R40, R165, R190, R192: FRAME_CLOSE of a valid STATUS from the own station number takes LISTEN, ACTIVE and ISOLATED to
CLASH, with the transmit queue emptied and the stopped report timer at 0 (assumption log 43), and fills no record. -/
def Obligations.OwnNumberClashes : Prop :=
  ∀ (f : RxFrame) (src dest seq : Byte) (payload : List Byte) (s : State),
    s.node.state.running = true → s.restartPending = false → s.line.transmitting = false → s.line.echo = false →
    s.line.rx = some f → validate f = .good kindStatus src dest seq payload → src = stationByte s.node.station →
    ∃ t, exec .frameClose s = .next t ∧ t.node.state = .clash ∧
      (s.node.state ≠ .clash → t.line.waiting = [] ∧ t.line.flight = none ∧ t.line.reportTimer = 0) ∧
      t.counters.statusGaps = s.counters.statusGaps ∧
      t.stable =
        State.stable { s.heard with
          node := { s.node with state := .clash, listenTimer := 0 } }

/-- R151 to R153: FRAME_CLOSE discards the node's own echo; counts one format error or one CRC error for a frame that fails
validation; and takes a valid STATUS in FALLBACK, and a REPLY anywhere, no further than its count. -/
def Obligations.FrameCloseDiscards : Prop :=
  ∀ (f : RxFrame) (s : State),
    s.node.state ≠ .start → s.restartPending = false → s.line.transmitting = false → s.line.rx = some f →
    (s.line.echo = true →
      ∃ t, exec .frameClose s = .next t ∧ t.line.echo = false ∧
        t.stable = State.stable { s with line := { s.line with rx := none, echo := false } }) ∧
    (s.line.echo = false → validate f = .formatError →
      ∃ t, exec .frameClose s = .next t ∧
        t.stable =
          State.stable { s with
            line := { s.line with rx := none }
            counters := { s.counters with formatErrors := min (s.counters.formatErrors + 1) 65535 } }) ∧
    (s.line.echo = false → validate f = .crcError →
      ∃ t, exec .frameClose s = .next t ∧
        t.stable =
          State.stable { s with
            line := { s.line with rx := none }
            counters := { s.counters with crcErrors := min (s.counters.crcErrors + 1) 65535 } }) ∧
    (∀ (src dest seq : Byte) (payload : List Byte), s.line.echo = false →
      (validate f = .good kindReply src dest seq payload ∨
        (validate f = .good kindStatus src dest seq payload ∧ s.node.state = .fallback)) →
      ∃ t, exec .frameClose s = .next t ∧ t.stable = s.heard.stable)

/-- R152, R158, R194: every frame the node forms passes the checks of reception and reads back as the kind, the addresses, the
sequence and the payload it was formed from. A STATUS must carry a payload that passes R24. -/
def Obligations.FormedFramesValidate : Prop :=
  ∀ (src dest seq : Byte) (payload : List Byte), payload.length ≤ 48 → src.toNat ≤ 15 →
    (dest.toNat ≤ 15 ∨ dest.toNat = 255) →
    (src ≠ 0 → dest.toNat = 255 → statusContentOk payload = true →
      validate ⟨frameOf kindStatus src dest seq payload, 8 + payload.length, false⟩ =
        .good kindStatus src dest seq payload) ∧
    (validate ⟨frameOf kindReply src dest 0 payload, 8 + payload.length, false⟩ = .good kindReply src dest 0 payload) ∧
    (src = 0 →
      validate ⟨frameOf kindCommand src dest 0 payload, 8 + payload.length, false⟩ =
        .good kindCommand src dest 0 payload)

/-- R23, R24, R158 and section 11.2: the payload of every report a node can send passes the content checks and reads back as
that report. -/
def Obligations.StatusPayloadReadsBack : Prop :=
  ∀ (r : Report) (s1 s2 : PumpState) (c1 c2 : PumpCause) (k : Nat),
    2 ≤ k → k ≤ 20 → r.period = 50 * k →
    (r.nodeState = .listen ∨ r.nodeState = .active ∨ r.nodeState = .isolated ∨ r.nodeState = .fallback) →
    (r.level ≤ 8000 ∨ r.level = 65535) →
    r.demands.t ≤ 255 → r.demands.m ≤ 255 → r.demands.p ≤ 255 → r.demands.l ≤ 255 →
    r.shares.t ≤ 255 → r.shares.m ≤ 255 → r.shares.p ≤ 255 → r.shares.l ≤ 255 →
    statusContentOk (statusPayload r s1 s2 c1 c2) = true ∧ reportOf (statusPayload r s1 s2 c1 c2) = r

/-- R169, R195 and section 11.3: each of the fourteen commands, with its arguments, is read back from its code and argument
characters; and whatever payload is read as a command is that command's code and arguments. -/
def Obligations.CommandPayloadReadsBack : Prop :=
  ∀ (c : MaintCommand) (payload : List Byte),
    payloadForm payload = .command c ↔
      payload = c.code ::
        (match c with
         | .pumpManual n d => [n, d]
         | .pumpAuto n => [n]
         | .lampManual ch l => [ch, l]
         | .lampAuto ch => [ch]
         | .query p => [p]
         | .close | .reopen | .gateStop | .gateRelease | .calibrate | .clear | .dump | .dumpAndZero | .restart => [])

/-- R153, R168 to R170, R195: FRAME_CLOSE of a valid COMMAND for this node, or for all, is the row of that command on the state
with the frame closed and counted (assumption log 8), once the silence the close still lacks has passed (assumption log 1); for
another node it is counted only; one that spells no command is refused with its REPLY where addressed, without one where
broadcast, and ignored in CLASH. -/
def Obligations.FrameCloseDispatchesCommand : Prop :=
  ∀ (f : RxFrame) (src dest seq : Byte) (payload : List Byte) (s : State),
    s.node.state ≠ .start → s.line.transmitting = false → s.line.echo = false → s.line.rx = some f →
    validate f = .good kindCommand src dest seq payload →
    (∀ c, payloadForm payload = .command c → dest = stationByte s.node.station →
      exec .frameClose s = exec (c.row .addressed) (s.elapse (240 - s.line.silence)).heard) ∧
    (∀ c, payloadForm payload = .command c → dest.toNat = 255 →
      exec .frameClose s = exec (c.row .broadcast) (s.elapse (240 - s.line.silence)).heard) ∧
    (s.restartPending = false → dest.toNat ≠ 255 → dest ≠ stationByte s.node.station →
      ∃ t, exec .frameClose s = .next t ∧ t.stable = s.heard.stable) ∧
    (∀ code, s.restartPending = false → s.node.state ≠ .clash → dest = stationByte s.node.station →
      payloadForm payload = .unknown code →
      ∃ t, exec .frameClose s = .next t ∧ (s.elapse (240 - s.line.silence)).repliedTo [code, 4] t ∧ t.stable = s.heard.stable) ∧
    (∀ code, s.restartPending = false → s.node.state ≠ .clash → dest = stationByte s.node.station →
      payloadForm payload = .badLength code →
      ∃ t, exec .frameClose s = .next t ∧ (s.elapse (240 - s.line.silence)).repliedTo [code, 3] t ∧ t.stable = s.heard.stable) ∧
    (∀ code, s.restartPending = false →
      ((dest.toNat = 255 ∧ s.node.state ≠ .clash) ∨
        (s.node.state = .clash ∧ (dest.toNat = 255 ∨ dest = stationByte s.node.station))) →
      (payloadForm payload = .unknown code ∨ payloadForm payload = .badLength code) →
      ∃ t, exec .frameClose s = .next t ∧ t.line.flight = s.line.flight ∧ t.line.waiting = s.line.waiting ∧
        t.stable = s.heard.stable)

/-! ### The supply and its allotment -/

/-- R36, R42, R43, R46, R47, R49 to R51, R60: the usable capacity that stands is floor(Cap × (100 − derate) / 100) − reserve,
not below 0, in ACTIVE, and the local allowance in LISTEN, ISOLATED and CLASH; and the shares that stand are those a pass on the
items that now stand would give, over every step: no change that a pass depends on goes without one. While sag is seen, at the
own feeder or in ACTIVE from a peer, the sag-hold timer stands running at 0, over every step, and a running one is stopped by
SAG_HOLD_END alone. -/
def Obligations.StepKeepsAllotment : Prop :=
  (∀ s t : State, step s = .next t →
    (s.usableFollows → s.sharesFollow → t.usableFollows ∧ t.sharesFollow) ∧ (s.sagFollows → t.sagFollows) ∧
    s.sagStands t) ∧
  ∀ s : State, s.sagSeenIs

/-- R52 to R55: the own shares of a pass, class by class, over the counted entries (the own one first). The remainder after a
class is what that class's whole sum leaves, never below 0. -/
def Obligations.PassServesClasses : Prop :=
  ∀ (usable : Nat) (own : Claim) (others : List Claim),
    let cs := own :: others
    let r := serveAll usable own others
    let rem1 := usable - classSum Demands.t cs
    let rem2 := rem1 - classSum Demands.m cs
    let rem3 := rem2 - aboveSum own.stage cs
    let rem4 := rem2 - classSum Demands.p cs
    (classSum Demands.t cs ≤ usable → r.shares.t = own.demands.t ∧ r.overrun = false) ∧
    (usable < classSum Demands.t cs →
      r.shares.t = usable * own.demands.t / classSum Demands.t cs ∧ r.overrun = true) ∧
    (classSum Demands.m cs ≤ rem1 → r.shares.m = own.demands.m) ∧
    (rem1 < classSum Demands.m cs → r.shares.m = rem1 * own.demands.m / classSum Demands.m cs) ∧
    (tierOf own.stage cs ≤ rem3 → r.shares.p = own.demands.p) ∧
    (rem3 < tierOf own.stage cs → r.shares.p = rem3 * own.demands.p / tierOf own.stage cs) ∧
    (classSum Demands.l cs ≤ rem4 → r.shares.l = own.demands.l) ∧
    (rem4 < classSum Demands.l cs → r.shares.l = rem4 * own.demands.l / classSum Demands.l cs)

/-- R45 to R47: SUPPLY_SOURCE_CHANGE moves the supply source, in FALLBACK too; OWN_SAG_SET sets the own sag flag and starts or
restarts the sag-hold timer from 0; OWN_SAG_CLEAR clears the flag and leaves sag held; SAG_HOLD_END stops the timer once sag is no
longer seen. -/
def Obligations.SupplyEvents : Prop :=
  ∀ (source : Supply) (code : Nat) (s : State), s.restartPending = false →
    (s.node.state ≠ .start → source ≠ s.allot.source →
      ∃ t, exec (.supplySourceChange source) s = .next t ∧ t.allot.source = source ∧
        t.stable =
          State.stable { s with
            pins := { s.pins with source := source }, allot := { s.allot with source := source } }) ∧
    (s.node.state.running = true → s.allot.ownSag = false → code < s.profile.sagThreshold →
      ∃ t, exec (.ownSagSet code) s = .next t ∧ t.allot.ownSag = true ∧ t.allot.sagHold = some 0 ∧
        t.stable =
          State.stable { s with
            pins := { s.pins with feederSense := code }, allot := { s.allot with ownSag := true } }) ∧
    (s.node.state.running = true → s.allot.ownSag = true → s.profile.sagThreshold ≤ code →
      ∃ t, exec (.ownSagClear code) s = .next t ∧ t.allot.ownSag = false ∧
        (s.allot.sagHold.isSome = true → t.allot.sagHold.isSome = true) ∧
        t.stable =
          State.stable { s with
            pins := { s.pins with feederSense := code }, allot := { s.allot with ownSag := false } }) ∧
    (s.node.state.running = true → s.sagSeen = false → s.allot.sagHold.isSome = true →
      ∃ t, exec .sagHoldEnd s = .next t ∧ t.allot.sagHold = none ∧ t.stable = s.stable)

/-! ### The pumps -/

/-- R67 to R70: LOOP_STEP decides SETTLED and moves W toward the error, with the start and stop corrections around the
minimum duty of the lead pump; without a WET dry float W is 0. -/
def Obligations.LoopStepMovesWant : Prop :=
  ∀ s : State, s.node.state.running = true → s.restartPending = false →
    ∃ t, exec .loopStep s = .next t ∧ t.pumps.loopTimer = 0 ∧
      (s.level.dry.debounced ≠ .wet → t.pumps.want = 0 ∧ t.pumps.settled = false) ∧
      (∀ e : Int, s.level.dry.debounced = .wet →
        e = (if s.level.level ≠ 65535 then (s.level.level : Int) - s.profile.setLevel
          else if 2 ≤ s.level.stage.num then (s.profile.narrowBand : Int) + 1
          else -((s.profile.narrowBand : Int) + 1)) →
        (e.natAbs ≤ s.profile.narrowBand ∨ (s.pumps.settled = true ∧ e.natAbs ≤ s.profile.wideBand) →
          t.pumps.settled = true ∧ t.pumps.want = min s.pumps.want s.wantMax) ∧
        (¬ (e.natAbs ≤ s.profile.narrowBand ∨ (s.pumps.settled = true ∧ e.natAbs ≤ s.profile.wideBand)) →
          t.pumps.settled = false ∧
          ∀ size moved leadMin : Nat,
            size = (if 3 ≤ s.level.stage.num then 2 * s.profile.stepSize else s.profile.stepSize) →
            moved = min (if 0 < e then s.pumps.want + size else s.pumps.want - size) s.wantMax →
            leadMin = (s.profile.pump s.pumps.lead).minDuty →
            (0 < e → 0 < moved → moved < leadMin → t.pumps.want = min leadMin s.wantMax) ∧
            (e < 0 → moved < leadMin → t.pumps.want = 0) ∧
            (leadMin ≤ moved ∨ (0 < e ∧ moved = 0) → t.pumps.want = moved))) ∧
      t.stable = s.stable

/-- R65, R87: SWITCH_CHANGE debounces the other position at its third equal read; in FALLBACK the pump then follows its switch
alone, and pump 1 at AUTO the high float, but for a LOCKED or TRIPPED one, which stays at duty 0. An interval in which one read
of the 100 ms grid falls (assumption log 26) raises the agreement count of its candidate, or makes a new candidate. -/
def Obligations.SwitchChangeDebounces : Prop :=
  ∀ (n : PumpNo) (pos : SwitchPos) (s : State),
    s.restartPending = false → pos ≠ .unsettled → pos ≠ (s.pumps.get n).switch.debounced →
    ((s.node.state.running = true ∧ (s.profile.pump n).present = true) ∨ s.node.state = .fallback) →
    ∃ t, exec (.switchChange n pos) s = .next t ∧ (t.pumps.get n).switch = ⟨pos, some pos, 3⟩ ∧
      (∀ c, s.node.state = .fallback → (s.pumps.get n).fault = .locked c →
        (t.pumps.get n).state = .locked ∧ (t.pumps.get n).cause = c.asCause ∧ (t.pumps.get n).duty = 0) ∧
      (∀ c, s.node.state = .fallback → (s.pumps.get n).fault = .tripped c →
        (t.pumps.get n).state = .tripped ∧ (t.pumps.get n).cause = c.asCause ∧ (t.pumps.get n).duty = 0) ∧
      (s.node.state = .fallback → (s.pumps.get n).fault = .none →
        (pos = .off → (t.pumps.get n).state = .off ∧ (t.pumps.get n).duty = 0) ∧
        (pos = .hand → (t.pumps.get n).state = .hand ∧ (t.pumps.get n).duty = 100) ∧
        (pos = .auto → n = .one → s.level.high.debounced = .wet →
          (t.pumps.get n).state = .running ∧ (t.pumps.get n).duty = 100) ∧
        (pos = .auto → (n = .two ∨ s.level.high.debounced ≠ .wet) →
          (t.pumps.get n).state = .idle ∧ (t.pumps.get n).duty = 0)) ∧
      t.stable =
        State.stable { s with
          pins := s.pins.withSwitch n pos
          pumps := s.pumps.put n { s.pumps.get n with switch := ⟨pos, some pos, 3⟩ } } ∧
      ∀ (d : Time) (read : SwitchPos),
        (s.node.readClock + d) / 100000 = s.node.readClock / 100000 + 1 →
        read = (match n with | .one => s.pins.switch1 | .two => s.pins.switch2) →
        ((s.elapse d).pumps.get n).switch =
          ⟨(s.pumps.get n).switch.debounced, some read,
           if (s.pumps.get n).switch.candidate = some read then min ((s.pumps.get n).switch.count + 1) 3 else 1⟩

/-- R78, R82, R83, R86: REST_TIMER_EXPIRY leaves a pump rested, its timer at the rest time also where it then starts (assumption
log 11), but for one that stops within the event; RETRY_EXPIRY returns it from TRIPPED; DRY_STAGE_CLEAR clears
both trip counts and holds its timer; RUN_MINUTE takes 60 s from the accumulator, which may stand above them (assumption log 56),
and counts a run minute. -/
def Obligations.PumpTimersExpire : Prop :=
  ∀ (n : PumpNo) (k : Time) (s : State), s.restartPending = false →
    (s.node.state.running = true → (s.profile.pump n).present = true → (s.pumps.get n).rest = .counting k →
      ∃ t, exec (.restTimerExpiry n) s = .next t ∧
        ((s.pumps.get n).duty = 0 ∨ 0 < (t.pumps.get n).duty → (t.pumps.get n).rest = .done) ∧ t.stable = s.stable) ∧
    (s.node.state.running = true → (s.pumps.get n).retry = some k →
      ∃ t, exec (.retryExpiry n) s = .next t ∧
        (t.pumps.get n).state ≠ .tripped ∧ (t.pumps.get n).state ≠ .locked ∧
        t.stable =
          State.stable { s with
            pumps := s.pumps.put n { s.pumps.get n with fault := .none, retry := none, latched := false } }) ∧
    (s.node.state.running = true → s.pumps.dryStage = .counting k →
      ∃ t, exec .dryStageClear s = .next t ∧
        t.stable =
          State.stable { s with
            pumps := { s.pumps with
              p1 := { s.pumps.p1 with tripCount := 0 }
              p2 := { s.pumps.p2 with tripCount := 0 }
              dryStage := .held } }) ∧
    (s.node.state ≠ .start → (0 < (s.pumps.get n).duty ∨ 60000000 ≤ (s.pumps.get n).runAcc) →
      ∃ t, exec (.runMinute n) s = .next t ∧ (t.pumps.get n).runAcc = (s.pumps.get n).runAcc - 60000000 ∧
        t.stable =
          State.stable { s with
            counters := { s.counters with
              pump1Minutes :=
                if n = .one then min (s.counters.pump1Minutes + 1) 65535 else s.counters.pump1Minutes
              pump2Minutes :=
                if n = .two then min (s.counters.pump2Minutes + 1) 65535 else s.counters.pump2Minutes } })

/-- R79 to R82: OVERCURRENT_TRIP at a pump that delivers duty, and DRYRUN_TRIP at a RUNNING one, trip it. A trip count that
stands at 7 stays there (assumption log 18). -/
def Obligations.TripsStopPumps : Prop :=
  ∀ (n : PumpNo) (code : Nat) (s : State),
    s.node.state.running = true → s.restartPending = false → (s.profile.pump n).present = true →
    (0 < (s.pumps.get n).duty → (s.profile.pump n).tripLevel < code →
      ∃ t, exec (.overcurrentTrip n code) s = .next t ∧ State.tripTaken n .overcurrent code s t) ∧
    ((s.pumps.get n).state = .running → code < (s.profile.pump n).dryLevel →
      ∃ t, exec (.dryrunTrip n code) s = .next t ∧ State.tripTaken n .dryrun code s t)

/-! ### The closure -/

/-- R95 to R99: WARN_TIMER_EXPIRY, CLEARANCE_TIMER_EXPIRY, PRESENCE_CLEAR and MAX_CLEAR_EXPIRY in their phases. That the
presence loop is read first at entry to CLEARING is the model's choice (assumption log 26), and so is that a gate HELD under the
command hold stays so at entry to SEALING with its limit active (assumption log 58), and that the max-clear timer, which holds
once BLOCKED is set, then has no expiry (assumption log 7). -/
def Obligations.PhaseTimersExpire : Prop :=
  ∀ s : State, s.node.state.running = true → s.restartPending = false →
    (s.closure.phase = .warning →
      ∃ t, exec .warnTimerExpiry s = .next t ∧ t.closure.phase = .stopping ∧ t.closure.clearanceTimer = 0 ∧
        t.closure.blocked = s.closure.blocked ∧ t.stable = s.stable) ∧
    (s.closure.phase = .stopping →
      ∃ t, exec .clearanceTimerExpiry s = .next t ∧ t.closure.phase = .clearing ∧ t.closure.presenceRun = 0 ∧
        t.closure.maxClearTimer = 0 ∧ t.closure.loopRead = s.pins.loopClear ∧ t.closure.loopClock = 0 ∧
        t.closure.blocked = s.closure.blocked ∧ t.stable = s.stable) ∧
    (s.closure.phase = .clearing →
      ∃ t, exec .presenceClear s = .next t ∧ t.closure.blocked = s.closure.blocked ∧
        (s.profile.gate.present = false → t.closure.phase = .sealed) ∧
        (s.profile.gate.present = true → s.gate.state = .closed → s.gate.standsAt .toClose →
          t.closure.phase = .sealed) ∧
        (s.profile.gate.present = true → s.gate.state ≠ .closed → s.gate.closedLimit.active = false →
          t.closure.phase = .sealing) ∧
        (s.profile.gate.present = true → s.gate.keyDrive = none →
          (s.gate.jam.isSome = true ∨ s.gate.bothLimits = true → t.closure.phase = .sealing ∧ t.gate.state = .jammed) ∧
          (s.gate.jam = none → s.gate.bothLimits = false → s.gate.closedLimit.active = true →
            (s.gate.commandHold = false → t.closure.phase = .sealed ∧ t.gate.state = .closed) ∧
            (s.gate.commandHold = true → s.gate.state = .held →
              t.closure.phase = .sealing ∧ t.gate.state = .held ∧ t.gate.holdCause = some .command))) ∧
        (s.profile.gate.present = true → s.gate.keyDrive = some .toOpen → s.gate.openLimit.active = false →
          t.closure.phase = .sealing) ∧
        t.stable = State.stable { s with pins := { s.pins with loopClear := true } }) ∧
    (s.closure.phase = .clearing → s.closure.blocked = false →
      ∃ t, exec .maxClearExpiry s = .next t ∧ t.closure.phase = .clearing ∧ t.closure.blocked = true ∧
        t.stable = s.stable) ∧
    (s.closure.blocked = true → exec .maxClearExpiry s = .next s)

/-- R90, R101, R102: OUTSIDE_FILTER_CHANGE in a bay with a gate changes the detector's filtered level, and with it the own
OUTSIDE origin; REOPEN_HOLD_EXPIRY in STOPPING, CLEARING, SEALING and SEALED leads to REOPENING, and on to OPEN, with BLOCKED
clear, in a bay without a gate, with the gate already OPEN, or where it is OPEN at its limit; a gate that is HELD at it (assumption
log 58), JAMMED or under the key elsewhere leaves REOPENING standing. The own origins are as every step leaves them. -/
def Obligations.DetectorAndReopenHold : Prop :=
  ∀ (active : Bool) (k : Time) (s : State), s.node.state.running = true → s.restartPending = false →
    (s.profile.gate.present = true → active ≠ s.closure.outside →
      ∃ t, exec (.outsideFilterChange active) s = .next t ∧ t.closure.own.outside = active ∧
        t.closure.own.command = s.closure.own.command ∧ t.closure.outsideHeld = none ∧
        (active = true → t.closure.phase ≠ .opened ∧ t.closure.phase ≠ .reopening) ∧
        t.stable =
          State.stable { s with
            pins := { s.pins with outsideWater := active }, closure := { s.closure with outside := active } }) ∧
    (s.originsFollow →
      (s.closure.phase = .stopping ∨ s.closure.phase = .clearing ∨ s.closure.phase = .sealing ∨
        s.closure.phase = .sealed) →
      s.wanted = false → s.closure.reopenHold = some k →
      ∃ t, exec .reopenHoldExpiry s = .next t ∧ t.closure.reopenHold = none ∧ t.stable = s.stable ∧
        ((s.profile.gate.present = false ∨ (s.gate.state = .opened ∧ s.gate.standsAt .toOpen)) →
          t.closure.phase = .opened ∧ t.closure.blocked = false) ∧
        (s.profile.gate.present = true → s.gate.state ≠ .opened → s.gate.openLimit.active = false →
          t.closure.phase = .reopening ∧ t.closure.blocked = s.closure.blocked) ∧
        (s.profile.gate.present = true → s.gate.keyDrive = none → s.gate.jam = none → s.gate.bothLimits = false →
          s.gate.openLimit.active = true →
          (s.gate.commandHold = false →
            t.closure.phase = .opened ∧ t.closure.blocked = false ∧ t.gate.state = .opened) ∧
          (s.gate.commandHold = true → (s.gate.state = .held ∨ s.gate.state.moves = true) →
            t.closure.phase = .reopening ∧ t.closure.blocked = s.closure.blocked ∧
            t.gate.state = .held ∧ t.gate.holdCause = some .command)) ∧
        (s.profile.gate.present = true → s.gate.keyDrive = none → (s.gate.jam.isSome = true ∨ s.gate.bothLimits = true) →
          t.closure.phase = .reopening ∧ t.closure.blocked = s.closure.blocked ∧ t.gate.state = .jammed) ∧
        (∀ d, s.profile.gate.present = true → s.gate.keyDrive = some d →
          (d = .toOpen → s.gate.openLimit.active = true → t.closure.phase = .opened ∧ t.closure.blocked = false) ∧
          (d = .toOpen → s.gate.openLimit.active = false →
            t.closure.phase = .reopening ∧ t.closure.blocked = s.closure.blocked) ∧
          (d = .toClose → t.closure.phase = .reopening ∧ t.closure.blocked = s.closure.blocked) ∧
          t.gate.keyDrive = some d))

/-! ### The gate -/

/-- R99, R101, R103, R113, R117, R120, R122, R124, R129: LIMIT_CHANGE debounces the limit's other level; the target limit of a
motion completes it and its phase; the opposite one jams it, under the key too, which then drives no further (assumption log
16), but not a motion that begins in the instant of the limit's third equal read (assumption log 47), so that one which drives
until that read jams (a present gate's travel maximum is above 0, R187); a HELD or UNKNOWN gate takes the state of the limit it
reaches, and the limit of a back-off ends it; a limit left makes a gate without a demand UNKNOWN, with no direction (assumption
log 40), and a demand drives it anew. In FALLBACK the limits and the key decide. -/
def Obligations.LimitChanges : Prop :=
  ∀ (w : LimitSwitch) (active : Bool) (s : State), s.restartPending = false → active ≠ (s.gate.limit w).active →
    ((s.node.state.running = true ∧ s.profile.gate.present = true) ∨ s.node.state = .fallback) →
    ∃ t, exec (.limitChange w active) s = .next t ∧
      (w = .openLimit → t.gate.openLimit = ⟨active, 0⟩) ∧ (w = .closedLimit → t.gate.closedLimit = ⟨active, 0⟩) ∧
      t.stable =
        State.stable { s with pins := s.pins.withLimit w active, gate := s.gate.withLimit w active } ∧
      (s.node.state.running = true → s.gate.keyDrive = none → s.gate.jam = none →
        (w = .closedLimit → active = true → s.gate.openLimit.active = false → s.gate.state = .closing →
          s.closure.phase = .sealing →
          t.gate.state = .closed ∧ t.gate.backoff = none ∧ t.gate.travel = 0 ∧ t.closure.phase = .sealed ∧
          t.counters.gateClosures = min (s.counters.gateClosures + 1) 65535) ∧
        (w = .openLimit → active = true → s.gate.closedLimit.active = false → s.gate.state = .opening →
          s.closure.phase = .reopening → s.originsFollow → s.wanted = false →
          t.gate.state = .opened ∧ t.gate.backoff = none ∧ t.gate.travel = 0 ∧ t.closure.phase = .opened ∧
          t.closure.blocked = false ∧ t.counters.gateClosures = s.counters.gateClosures) ∧
        (w = .openLimit → active = true → s.gate.closedLimit.active = false → s.gate.state = .closing →
          s.gate.backoff = none →
          (0 < s.gate.travel ∨ s.gate.openLimit.count < 3) → 0 < s.profile.gate.travelMax →
          t.gate.state = .jammed ∧ t.gate.jam = some .limits) ∧
        (w = .closedLimit → active = true → s.gate.openLimit.active = false → s.gate.state = .opening →
          s.gate.backoff = none →
          (0 < s.gate.travel ∨ s.gate.closedLimit.count < 3) → 0 < s.profile.gate.travelMax →
          t.gate.state = .jammed ∧ t.gate.jam = some .limits) ∧
        (w = .closedLimit → active = true → s.gate.openLimit.active = false → s.gate.state = .opening →
          s.gate.backoff = none → s.gate.travel = 0 → 3 ≤ s.gate.closedLimit.count → s.gate.commandHold = false →
          s.closure.phase = .reopening →
          s.originsFollow → s.wanted = false →
          t.closure.phase = .reopening ∧ t.gate.jam = none ∧
          (s.profile.gate.ratedDraw ≤ t.allot.shares.m → t.gate.state = .opening)) ∧
        (active = true → (s.gate.withLimit w active).bothLimits = true →
          t.gate.state = .jammed ∧ t.gate.jam = some .limits) ∧
        (active = true → s.gate.atTarget w.dir.opposite = false → (s.gate.state = .held ∨ s.gate.state = .unknown) →
          (s.closure.phase = .reopening → s.originsFollow ∧ s.wanted = false) →
          t.gate.jam = none ∧
          t.counters.gateClosures =
            (if w = .closedLimit ∧ s.gate.state = .held then min (s.counters.gateClosures + 1) 65535
              else s.counters.gateClosures) ∧
          (s.gate.commandHold = true ∨ s.closure.phase.gateDemand ≠ some w.dir.opposite →
            t.gate.state = w.dir.atLimit ∧ t.gate.motor = none ∧ t.gate.backoff = none) ∧
          (s.gate.commandHold = false → s.closure.phase.gateDemand = some w.dir.opposite →
            s.newlyDriven w.dir.opposite t)) ∧
        (∀ d, s.drivenToward d → s.gate.backoff.isSome = true → w.dir = d.opposite → active = true →
          t.gate.jam = none ∧ t.gate.backoff = none ∧ t.gate.retries = s.gate.retries ∧ t.gate.dir = some d ∧
          (s.profile.gate.ratedDraw ≤ t.allot.shares.m → t.gate.state = d.moving ∧ t.gate.motor = some d)) ∧
        (active = false → s.gate.atTarget w.dir.opposite = false → s.gate.state = w.dir.atLimit →
          (s.gate.commandHold = true ∨ s.closure.phase.gateDemand = none →
            t.gate.state = .unknown ∧ t.gate.dir = none) ∧
          (∀ d, s.gate.commandHold = false → s.closure.phase.gateDemand = some d →
            (d = .toOpen → s.originsFollow ∧ s.wanted = false) → s.newlyDriven d t))) ∧
      (∀ d, s.node.state.running = true → s.gate.keyDrive = some d → w.dir = d.opposite → active = true →
        s.gate.atTarget d = false → s.gate.state = d.moving →
        t.gate.jam = some .limits ∧ t.gate.motor = none ∧ t.gate.state = .held ∧ t.gate.holdCause = some .share ∧
        t.gate.keyDrive = some d ∧ t.gate.dir = s.gate.dir) ∧
      (s.node.state = .fallback → s.gate.keyDrive = none →
        t.gate.state =
          (if (s.gate.withLimit w active).bothLimits then .jammed
            else if (s.gate.withLimit w active).closedLimit.active then .closed
            else if (s.gate.withLimit w active).openLimit.active then .opened else .unknown)) ∧
      (∀ d, s.node.state = .fallback → s.gate.keyDrive = some d → s.gate.backoff = none →
        ((s.gate.withLimit w active).bothLimits = true → t.gate.state = .jammed ∧ t.gate.motor = none) ∧
        ((s.gate.withLimit w active).bothLimits = false → (s.gate.withLimit w active).atTarget d = true →
          t.gate.state = d.atLimit ∧ t.gate.motor = none) ∧
        ((s.gate.withLimit w active).atTarget d = false → t.gate.state = d.moving ∧ t.gate.motor = some d))

/-- R99, R101, R112, R114 to R116, R122, R129: KEY_TAKEOVER drives the gate in the key's direction whatever its state and share,
but not with both limits active; KEY_RELEASE stops it and takes the state from the jam, with which no phase ends, or from the
limits, before a standing demand acts on it again. In FALLBACK both act on the limits and the key alone. -/
def Obligations.KeyTakesAndReleases : Prop :=
  ∀ (d : Dir) (s : State), s.restartPending = false →
    ((s.node.state.running = true ∧ s.profile.gate.present = true) ∨ s.node.state = .fallback) →
    (s.gate.key.debounced ≠ .turned d →
      ∃ t, exec (.keyTakeover d) s = .next t ∧
        t.stable =
          State.stable { s with
            pins := { s.pins with key := .turned d }
            gate := { s.gate with keyDrive := some d, key := ⟨.turned d, some (.turned d), 3⟩ } } ∧
        (s.node.state.running = true →
          t.gate.dir = some d ∧ t.gate.travel = 0 ∧ t.gate.retries = s.profile.gate.stallRetries ∧
          t.gate.backoff = none ∧ (s.gate.jam.isSome = true → t.gate.jam.isSome = true)) ∧
        t.gate.key = ⟨.turned d, some (.turned d), 3⟩ ∧
        (s.gate.atTarget d = true → s.gate.bothLimits = false → t.gate.state = d.atLimit ∧ t.gate.motor = none) ∧
        (s.gate.bothLimits = true →
          t.gate.jam = some .limits ∧ t.gate.motor = none ∧
          (s.node.state = .fallback → t.gate.state = .jammed)) ∧
        (s.gate.atTarget d = false → (s.gate.keyStalled = false ∨ s.node.state = .fallback) →
          t.gate.state = d.moving ∧ t.gate.motor = some d)) ∧
    (s.gate.key.debounced ≠ .auto →
      ∃ t, exec .keyRelease s = .next t ∧
        t.stable =
          State.stable { s with
            pins := { s.pins with key := .auto }
            gate := { s.gate with keyDrive := none, keyStalled := false, key := ⟨.auto, some .auto, 3⟩ } } ∧
        t.gate.key = ⟨.auto, some .auto, 3⟩ ∧
        (s.node.state.running = true → s.gate.jam.isSome = true →
          t.gate.state = .jammed ∧ t.gate.motor = none ∧
          (s.closure.phase = .sealing → t.closure.phase = .sealing) ∧
          (s.closure.phase = .reopening → s.originsFollow → s.wanted = false → t.closure.phase = .reopening)) ∧
        (s.node.state.running = true → s.gate.jam = none → s.gate.bothLimits = false → s.gate.commandHold = false →
          (s.closure.phase = .sealing ∨ s.closure.phase = .sealed) →
          (s.gate.closedLimit.active = true → t.gate.state = .closed ∧ t.closure.phase = .sealed) ∧
          (s.gate.closedLimit.active = false →
            (s.profile.gate.ratedDraw ≤ t.allot.shares.m → t.gate.state = .closing ∧ t.gate.motor = some .toClose) ∧
            (t.allot.shares.m < s.profile.gate.ratedDraw →
              t.gate.state = .held ∧ t.gate.holdCause = some .share ∧ t.gate.motor = none))) ∧
        (s.node.state.running = true → s.gate.jam = none → s.gate.bothLimits = false → s.gate.commandHold = false →
          s.closure.phase = .reopening → s.originsFollow → s.wanted = false →
          (s.gate.openLimit.active = true →
            t.gate.state = .opened ∧ t.closure.phase = .opened ∧ t.closure.blocked = false ∧ t.gate.motor = none) ∧
          (s.gate.openLimit.active = false →
            t.closure.phase = .reopening ∧
            (s.profile.gate.ratedDraw ≤ t.allot.shares.m → t.gate.state = .opening ∧ t.gate.motor = some .toOpen) ∧
            (t.allot.shares.m < s.profile.gate.ratedDraw →
              t.gate.state = .held ∧ t.gate.holdCause = some .share ∧ t.gate.motor = none))) ∧
        (s.node.state.running = true → s.gate.jam = none → s.gate.bothLimits = false → s.gate.commandHold = true →
          t.gate.motor = none ∧
          (s.gate.closedLimit.active = true →
            t.gate.state = .closed ∧ (s.closure.phase = .sealing → t.closure.phase = .sealed)) ∧
          (s.gate.openLimit.active = true →
            t.gate.state = .opened ∧ (s.closure.phase = .sealing → t.closure.phase = .sealing)) ∧
          (s.gate.closedLimit.active = false → s.gate.openLimit.active = false →
            t.gate.state = .held ∧ t.gate.holdCause = some .command ∧
            (s.closure.phase = .sealing → t.closure.phase = .sealing))) ∧
        (s.node.state = .fallback →
          t.gate.motor = none ∧
          t.gate.state =
            (if s.gate.bothLimits then .jammed
              else if s.gate.closedLimit.active then .closed
              else if s.gate.openLimit.active then .opened else .unknown)) ∧
        (s.node.state.running = true → s.gate.jam = none → s.gate.bothLimits = false →
          s.closure.phase.gateDemand = none →
          t.gate.motor = none ∧
          (s.gate.closedLimit.active = true → t.gate.state = .closed) ∧
          (s.gate.openLimit.active = true → t.gate.state = .opened) ∧
          (s.gate.closedLimit.active = false → s.gate.openLimit.active = false →
            t.gate.state = .held ∧
            t.gate.holdCause = some (if s.gate.commandHold then .command else .share))))

/-- R115, R121, R123: GATE_STALL counts a stall and backs the motor off, or jams it, or stalls the key; BACKOFF_END drives on;
TRAVEL_MAXIMUM jams the gate. A back-off stands only while the MOTION share still covers the draw (R118). -/
def Obligations.GateDriveEvents : Prop :=
  ∀ (code : Nat) (s : State), s.restartPending = false →
    (∀ d, s.drivenToward d → s.profile.gate.stallLevel < code → s.gate.backoff = none → 0 < s.gate.retries →
      ∃ t, exec (.gateStall code) s = .next t ∧ t.gate.retries = s.gate.retries - 1 ∧ t.gate.jam = none ∧
        (s.profile.gate.ratedDraw ≤ t.allot.shares.m →
          t.gate.state = d.moving ∧ t.gate.backoff = some 0 ∧ t.gate.motor = some d.opposite) ∧
        t.stable =
          State.stable { s with
            pins := { s.pins with gateCurrent := code }
            counters := { s.counters with gateStalls := min (s.counters.gateStalls + 1) 65535 } }) ∧
    (∀ d, s.drivenToward d → s.profile.gate.stallLevel < code → (s.gate.backoff.isSome = true ∨ s.gate.retries = 0) →
      ∃ t, exec (.gateStall code) s = .next t ∧ t.gate.state = .jammed ∧ t.gate.jam = some .stall ∧
        t.gate.dir = some d ∧ t.gate.motor = none ∧
        t.stable =
          State.stable { s with
            pins := { s.pins with gateCurrent := code }
            counters := { s.counters with gateStalls := min (s.counters.gateStalls + 1) 65535 } }) ∧
    (∀ d, s.node.state.running = true → s.profile.gate.present = true → s.gate.keyDrive = some d →
      s.gate.motor.isSome = true → s.gate.atTarget d = false → s.profile.gate.stallLevel < code →
      ∃ t, exec (.gateStall code) s = .next t ∧ t.gate.keyStalled = true ∧ t.gate.motor = none ∧
        t.gate.state = .held ∧ t.gate.holdCause = some .share ∧
        t.stable =
          State.stable { s with
            pins := { s.pins with gateCurrent := code }
            gate := { s.gate with keyStalled := true }
            counters := { s.counters with gateStalls := min (s.counters.gateStalls + 1) 65535 } }) ∧
    (∀ d, s.drivenToward d → s.gate.backoff.isSome = true →
      ∃ t, exec .backoffEnd s = .next t ∧ t.gate.backoff = none ∧ t.gate.retries = s.gate.retries ∧
        t.gate.jam = none ∧ t.stable = s.stable ∧
        (s.profile.gate.ratedDraw ≤ t.allot.shares.m → t.gate.state = d.moving ∧ t.gate.motor = some d)) ∧
    (s.node.state.running = true → s.profile.gate.present = true → s.gate.state.moves = true →
      s.gate.keyDrive = none → s.gate.backoff = none → s.gate.bothLimits = false →
      ∃ t, exec .travelMaximum s = .next t ∧ t.gate.state = .jammed ∧ t.gate.jam = some .travel ∧
        t.gate.dir = s.gate.dir ∧ t.gate.motor = none ∧ t.stable = s.stable)

/-! ### The lamps -/

/-- R132, R133, R139, R141 to R143: LAMP_TICK forms the band, advances the flash counters and checks every lit lamp at the
output the tick sets (assumption log 21; the counters run by the aspect and the phase alone: assumption log 60); LAMP_FAILED and
LAMP_SHORTED are the tick at which their events come about (assumption log 6). In FALLBACK a tick changes no lamp. -/
def Obligations.LampTickChecksLamps : Prop :=
  ∀ (r : LampReads) (s : State), s.restartPending = false →
    (s.node.state.running = true →
      ∃ t, exec (.lampTick r) s = .next t ∧ t.lamps.lampTimer = 0 ∧ t.lamps.bandFormed = true ∧
        (∀ k, highestBand s.profile r.ambient k →
          (s.lamps.bandFormed = false ∨ s.lamps.band.num < k → t.lamps.band.num = k) ∧
          (s.lamps.bandFormed = true → k ≤ s.lamps.band.num →
            t.lamps.band.num ≤ s.lamps.band.num ∧
            (1 ≤ t.lamps.band.num →
              ambientThreshold s.profile t.lamps.band.num ≤
                r.ambient + ambientThreshold s.profile t.lamps.band.num * 5 / 100) ∧
            (∀ j, t.lamps.band.num < j → j ≤ s.lamps.band.num →
              r.ambient + ambientThreshold s.profile j * 5 / 100 < ambientThreshold s.profile j))) ∧
        (∀ i, LampRec.checked s.profile (s.profile.lamps.get i) (s.tickOutput i) (r.currents.get i)
          (s.lamps.recs.get i) (t.lamps.recs.get i)) ∧
        (t.lamps.aspect = s.lamps.aspect →
          t.lamps.amberCounter = advance (amberPattern s.profile s.lamps.aspect) s.lamps.amberCounter) ∧
        (t.closure.phase = s.closure.phase →
          t.lamps.guidanceCounter = advance (guidancePattern s.profile s.closure.phase) s.lamps.guidanceCounter) ∧
        (s.lampsLost t = 0 → t.counters.lampFaults = s.counters.lampFaults) ∧
        (0 < s.lampsLost t → t.counters.lampFaults = min (s.counters.lampFaults + s.lampsLost t) 65535) ∧
        t.stable =
          State.stable { s with
            pins := { s.pins with ambient := r.ambient, lampCurrents := r.currents }
            lamps := { s.lamps with
              band := t.lamps.band
              bandFormed := true
              recs := Eight.ofFn fun i =>
                { s.lamps.recs.get i with
                  health := (t.lamps.recs.get i).health
                  filterCount := (t.lamps.recs.get i).filterCount
                  shortRun := (t.lamps.recs.get i).shortRun } }
            counters := { s.counters with lampFaults := t.counters.lampFaults } }) ∧
    (∀ i, s.node.state.running = true → s.tickOutput i ≠ 0 →
      r.currents.get i <
        (if (s.profile.lamps.get i).cls = .carriageway then s.profile.openThreshold * s.tickOutput i / 100
          else s.profile.openThreshold) →
      s.profile.filterLimit ≤ (s.lamps.recs.get i).filterCount + 1 →
      ∃ t, exec (.lampFailed r) s = .next t ∧ exec (.lampTick r) s = .next t ∧
        (t.lamps.recs.get i).health = .failed ∧ (t.lamps.recs.get i).output = 0) ∧
    (∀ i, s.node.state.running = true → s.tickOutput i ≠ 0 →
      (if (s.profile.lamps.get i).cls = .carriageway then s.profile.openThreshold * s.tickOutput i / 100
        else s.profile.openThreshold) ≤ r.currents.get i →
      s.profile.shortThreshold < r.currents.get i → 2 ≤ (s.lamps.recs.get i).shortRun →
      ∃ t, exec (.lampShorted r) s = .next t ∧ exec (.lampTick r) s = .next t ∧
        (t.lamps.recs.get i).health = .shorted ∧ (t.lamps.recs.get i).output = 0) ∧
    (s.node.state = .fallback →
      ∃ t, exec (.lampTick r) s = .next t ∧ t.lamps.lampTimer = 0 ∧
        t.stable = State.stable { s with pins := { s.pins with ambient := r.ambient, lampCurrents := r.currents } })

/-! ### The line -/

/-- R149 to R151, R158, R159, R161, R194: ATTEMPT_START after 4 character times of silence and RETRY_START after 4 + 4 × k put
the first character of the fixed frame on the line; LINE_CHARACTER puts on the next one, level by level for one bit time each,
or takes one of another station from its ten levels, which opens a frame or joins the open one. What each lacks of its silence
or character time passes within it (assumption log 1). A frame that should have closed closes first, as FRAME_CLOSE has it
(assumption log 23), and a start that this begins hears nothing (assumption log 29). That the
row of the node's own next character carries nothing but that is assumption log 25. -/
def Obligations.CharactersAndAttempts : Prop :=
  ∀ (f : Flight) (s : State),
    (s.line.flight = some f → s.line.access = .defer → s.node.state.transmits = true → s.line.rx = none →
      exec .attemptStart s = .next (s.attemptBegun f (4 * 160 - s.line.silence))) ∧
    (∀ k, s.line.flight = some f → s.line.access = .backoff k → s.node.state.transmits = true → s.line.rx = none →
      exec .retryStart s = .next (s.attemptBegun f ((4 + 4 * k) * 160 - s.line.silence))) ∧
    (s.line.flight = some f → s.line.access = .none → 0 < f.sent → f.sent < (f.frame.getD []).length →
      ∃ t, exec (.lineCharacter .own) s = .next t ∧ t.line.silence = 0 ∧ t.line.sinceOwn = 0 ∧
        t.line.flight = some { f with sent := f.sent + 1 } ∧ t.line.waiting = s.line.waiting ∧
        t.stable =
          State.stable { s with
            line := { s.line with
              lastChar := .own, rx := addChar s.line.rx (byteAt (f.frame.getD []) f.sent) true } } ∧
        (∀ d, s.node.state ≠ .start → d < 160 →
          (t.elapse d).line.txe = true ∧
          (t.elapse d).line.txd =
            if d < 16 then false
            else if d < 144 then (byteAt (f.frame.getD []) f.sent).getLsbD (d / 16 - 1) else true)) ∧
    (s.line.flight = none → (s.line.tail = none ∨ 160 ≤ s.line.sinceOwn) →
      s.line.txe = false ∧ s.line.txd = true) ∧
    (∀ (wait : Time) (w : Wire), s.node.state ≠ .start →
      (s.line.rx = none ∨ s.line.transmitting = true ∨ s.line.silence + wait ≤ 240) →
      ∃ t, exec (.lineCharacter (.other wait w)) s = .next t ∧ t.line.silence = 0 ∧
        t.line.flight = s.line.flight ∧ t.line.waiting = s.line.waiting ∧
        (s.line.rx = none → t.line.rx = some ⟨[w.extractLsb' 1 8], 1, !w.getLsbD 9⟩) ∧
        (∀ g, s.line.rx = some g →
          t.line.rx =
            some ⟨if g.count < 56 then g.kept ++ [w.extractLsb' 1 8] else g.kept, g.count + 1,
              g.badStop || !w.getLsbD 9⟩) ∧
        t.stable = State.stable { s with line := { s.line with lastChar := .other, rx := t.line.rx } }) ∧
    (∀ (wait : Time) (w : Wire) g, s.node.state ≠ .start → s.line.rx = some g → s.line.transmitting = false →
      240 < s.line.silence + wait →
      ∃ u t, exec .frameClose (s.elapse wait) = .next u ∧ exec (.lineCharacter (.other wait w)) s = .next t ∧
        (u.node.state = .start → t = u) ∧
        (u.node.state ≠ .start →
          t = { u with
            line := { u.line with
              silence := 0, lastChar := .other, rx := some ⟨[w.extractLsb' 1 8], 1, !w.getLsbD 9⟩ } }))

/-- R160 to R163: COLLISION where the character read back differs, or its stop bit fails: counted; the eighth gives up; a
STATUS that is no longer the newest is superseded by the waiting marker; any other entry waits for its retry. -/
def Obligations.CollisionsAreResolved : Prop :=
  ∀ (readBack : Byte) (stopOk : Bool) (f : Flight) (s : State),
    s.restartPending = false → s.line.flight = some f → s.line.access = .none → 0 < f.sent →
    (readBack ≠ byteAt (f.frame.getD []) (f.sent - 1) ∨ stopOk = false) →
    ∃ t, exec (.collision readBack stopOk) s = .next t ∧
      t.counters.collisions = min (s.counters.collisions + 1) 65535 ∧
      (7 ≤ s.line.attempts →
        s.flightLeft t ∧ t.counters.giveUps = min (s.counters.giveUps + 1) 65535) ∧
      (s.line.attempts < 7 →
        t.counters.giveUps = s.counters.giveUps ∧ t.counters.queueDrops = s.counters.queueDrops ∧
        t.line.attempts = s.line.attempts + 1 ∧
        t.line.access = .backoff (((s.node.station.val + 1) * 7 + (s.line.attempts + 1) * 5) % 16) ∧
        (f.entry = .status → s.line.newer = true → .status ∈ s.line.waiting →
          t.line.flight = some ⟨.status, none, 0⟩ ∧ t.line.waiting = s.line.waiting.erase .status ∧
          t.line.newer = false) ∧
        ((f.entry ≠ .status ∨ s.line.newer = false ∨ .status ∉ s.line.waiting) →
          t.line.flight = some { f with sent := 0 } ∧ t.line.waiting = s.line.waiting ∧
          t.line.newer = s.line.newer)) ∧
      t.stable =
        State.stable { s with
          counters := { s.counters with collisions := t.counters.collisions, giveUps := t.counters.giveUps } }

/-- R154, R155, R157, R162, R164: ATTEMPT_COMPLETE puts the characters of the frame that have not started on the line
(assumption log 25), counts the frame and takes its entry from the queue; a STATUS leaves its shares as last sent and steps the
own sequence, with 1 after 0 and after 255; REPORT_TIMER_EXPIRY requests a STATUS. A departure, by completion or by give-up at
the end of the collided character (assumption log 25), counts a deferral where the next entry finds the line busy, and leaves an
empty queue as assumption log 54 has it. The time each row still lacks passes within it (assumption log 1). -/
def Obligations.AttemptsAndReportsComplete : Prop :=
  ∀ (f : Flight) (frame : List Byte) (s : State), s.restartPending = false →
    (s.line.flight = some f → f.frame = some frame → s.line.access = .none → 0 < f.sent → f.sent ≤ frame.length →
      ∃ t, exec .attemptComplete s = .next t ∧
        s.flightLeft t ∧ s.departureLeaves (f.sent = frame.length ∧ s.busyAfter (160 - s.line.sinceOwn)) t ∧
        (s.line.rx = some ⟨frame.take f.sent, f.sent, false⟩ → frame.length ≤ 56 →
          t.line.rx = some ⟨frame, frame.length, false⟩) ∧
        (f.sent < frame.length → t.line.lastChar = .own) ∧
        (f.entry = .status →
          t.stable =
            State.stable { s with
              line := { s.line with
                rx := t.line.rx
                lastChar := t.line.lastChar
                ownSeq :=
                  if (byteAt frame 4).toNat = 0 ∨ (byteAt frame 4).toNat = 255 then 1 else (byteAt frame 4).toNat + 1
                lastShares :=
                  ⟨(byteAt frame 22).toNat, (byteAt frame 23).toNat, (byteAt frame 24).toNat,
                   (byteAt frame 25).toNat⟩ }
              counters := { s.counters with statusSent := min (s.counters.statusSent + 1) 65535 } }) ∧
        (f.entry ≠ .status →
          t.stable =
            State.stable { s with
              line := { s.line with rx := t.line.rx, lastChar := t.line.lastChar }
              counters := { s.counters with replySent := min (s.counters.replySent + 1) 65535 } })) ∧
    (s.node.state.transmits = true →
      ∃ t, exec .reportTimerExpiry s = .next t ∧
        (s.elapse (s.ownPeriod * 1000 - s.line.reportTimer)).requestedTo t ∧ t.stable = s.stable) ∧
    (∀ (readBack : Byte) (stopOk : Bool), s.line.flight = some f → s.line.access = .none → 0 < f.sent →
      7 ≤ s.line.attempts → (readBack ≠ byteAt (f.frame.getD []) (f.sent - 1) ∨ stopOk = false) →
      ∃ t, exec (.collision readBack stopOk) s = .next t ∧
        s.departureLeaves (s.busyAfter (160 - s.line.sinceOwn)) t)

/-! ### The maintenance commands -/

/-- R91, R94, R102, R105, R125, R126, R171, R172: CLOSE and REOPEN, and GATE_STOP and GATE_RELEASE in a bay with a gate, where the
node state accepts them. A gate stopped with a limit still active is HELD (assumption log 58). -/
def Obligations.ClosureAndGateCommands : Prop :=
  ∀ (dest : Addressing) (s : State),
    (s.node.state = .listen ∨ s.node.state = .active ∨ s.node.state = .isolated) → s.restartPending = false →
    (∃ t, exec (.close dest) s = .next t ∧ t.closure.own.command = true ∧ t.wanted = true ∧
      s.answers dest [0x01#8, 0x00#8] t ∧
      (s.closure.phase = .opened → t.closure.phase = .warning ∧ t.closure.warnTimer = 0) ∧
      (s.closure.phase = .reopening → t.closure.phase = .sealing ∨ t.closure.phase = .sealed) ∧
      (s.closure.phase.holdable = true → t.closure.reopenHold = none) ∧
      t.stable = s.stable) ∧
    (∃ t, exec (.reopen dest) s = .next t ∧ t.closure.own.command = false ∧
      (t.wanted = false → s.answers dest [0x02#8, 0x00#8] t) ∧
      (t.wanted = true → s.answers dest [0x02#8, 0x02#8, byte t.unionOrigins.code] t) ∧
      (t.wanted = false → s.closure.phase = .warning → t.closure.phase = .opened) ∧
      (t.wanted = false → s.closure.phase.holdable = true → s.closure.reopenHold = none →
        t.closure.reopenHold = some 0) ∧
      t.stable = State.stable { s with picture := s.picture.release }) ∧
    (s.profile.gate.present = true →
      ∃ t, exec (.gateStop dest) s = .next t ∧ t.gate.commandHold = true ∧ s.answers dest [0x03#8, 0x00#8] t ∧
        (s.gate.keyDrive = none → s.gate.jam = none → s.gate.bothLimits = false →
          (s.gate.state.moves = true ∨ s.gate.state = .held) →
          t.gate.state = .held ∧ t.gate.holdCause = some .command ∧ t.gate.dir = s.gate.dir ∧
          t.gate.travel = s.gate.travel ∧ t.gate.retries = s.gate.retries ∧ t.gate.backoff = none) ∧
        t.stable = State.stable { s with gate := { s.gate with commandHold := true } }) ∧
    (s.profile.gate.present = true →
      ∃ t, exec (.gateRelease dest) s = .next t ∧ t.gate.commandHold = false ∧ s.answers dest [0x04#8, 0x00#8] t ∧
        (s.gate.keyDrive = none → s.gate.jam = none → s.gate.bothLimits = false → s.gate.state = .held →
          s.closure.phase.gateDemand = none → t.gate.state = .held ∧ t.gate.holdCause = some .share) ∧
        (s.gate.keyDrive = none → s.gate.jam = none → s.gate.state = .held → s.gate.backoff = none →
          s.gate.dir = some .toClose → s.gate.closedLimit.active = false →
          (s.closure.phase = .sealing ∨ s.closure.phase = .sealed) →
          (s.profile.gate.ratedDraw ≤ t.allot.shares.m →
            t.gate.state = .closing ∧ t.gate.travel = s.gate.travel ∧ t.gate.retries = s.gate.retries) ∧
          (t.allot.shares.m < s.profile.gate.ratedDraw →
            t.gate.state = .held ∧ t.gate.holdCause = some .share)) ∧
        (∀ d, s.gate.keyDrive = none → s.gate.jam = none → s.gate.bothLimits = false → s.gate.state = .held →
          s.gate.backoff = none → s.closure.phase.gateDemand = some d →
          (d = .toOpen → s.originsFollow ∧ s.wanted = false) →
          (s.gate.atTarget d = true → t.gate.state = d.atLimit ∧ t.gate.motor = none ∧ t.gate.travel = 0) ∧
          (s.gate.atTarget d = false →
            t.closure.phase.gateDemand = some d ∧ t.gate.dir = some d ∧
            (s.gate.dir = some d → t.gate.travel = s.gate.travel ∧ t.gate.retries = s.gate.retries) ∧
            (s.gate.dir ≠ some d → t.gate.travel = 0 ∧ t.gate.retries = s.profile.gate.stallRetries) ∧
            (s.profile.gate.ratedDraw ≤ t.allot.shares.m → t.gate.state = d.moving ∧ t.gate.motor = some d) ∧
            (t.allot.shares.m < s.profile.gate.ratedDraw →
              t.gate.state = .held ∧ t.gate.holdCause = some .share ∧ t.gate.motor = none))) ∧
        t.stable = State.stable { s with gate := { s.gate with commandHold := false } })

/-- R85, R169, R173: PUMP_MANUAL and PUMP_AUTO for a present pump, where the node state accepts them. -/
def Obligations.PumpCommands : Prop :=
  ∀ (dest : Addressing) (n d : Byte) (k : PumpNo) (s : State),
    (s.node.state = .listen ∨ s.node.state = .active ∨ s.node.state = .isolated) → s.restartPending = false →
    n.toNat = k.num → (s.profile.pump k).present = true →
    (∃ t, exec (.pumpManual dest n d) s = .next t ∧
      s.answers dest [0x10#8, 0x00#8, n, 0x01#8, byte (min d.toNat 100)] t ∧
      ((s.pumps.get k).fault = .none → (s.pumps.get k).switch.debounced = .auto → s.level.dry.debounced = .wet →
        (t.pumps.get k).want =
          if min d.toNat 100 = 0 then 0 else max (min d.toNat 100) (s.profile.pump k).minDuty) ∧
      t.stable =
        State.stable { s with
          pumps := s.pumps.put k { s.pumps.get k with remote := true, manualDuty := min d.toNat 100 } }) ∧
    (∃ t, exec (.pumpAuto dest n) s = .next t ∧
      s.answers dest [0x11#8, 0x00#8, n, 0x00#8, byte (s.pumps.get k).manualDuty] t ∧
      t.stable = State.stable { s with pumps := s.pumps.put k { s.pumps.get k with remote := false } })

/-- R144, R169, R174: LAMP_MANUAL and LAMP_AUTO for a carriageway or guidance channel, where the node state accepts them. -/
def Obligations.LampCommands : Prop :=
  ∀ (dest : Addressing) (ch l : Byte) (i : Fin 8) (s : State),
    (s.node.state = .listen ∨ s.node.state = .active ∨ s.node.state = .isolated) → s.restartPending = false →
    ch.toNat = i.val + 1 → ((s.profile.lamps.get i).cls = .carriageway ∨ (s.profile.lamps.get i).cls = .guidance) →
    (∃ t, exec (.lampManual dest ch l) s = .next t ∧
      s.answers dest
        [0x18#8, 0x00#8, ch, 0x01#8, byte (min l.toNat 100), byte (t.lamps.recs.get i).output] t ∧
      ((s.lamps.recs.get i).health.inService = true → (t.lamps.recs.get i).submerged = false →
        (t.lamps.recs.get i).output =
          if (s.profile.lamps.get i).cls = .carriageway then min l.toNat 100
          else if 50 ≤ min l.toNat 100 then 100 else 0) ∧
      t.stable =
        State.stable { s with
          lamps := { s.lamps with
            recs := s.lamps.recs.set i { s.lamps.recs.get i with manual := some (min l.toNat 100) } } }) ∧
    (∃ t, exec (.lampAuto dest ch) s = .next t ∧
      s.answers dest [0x19#8, 0x00#8, ch, 0x00#8, 0x00#8, byte (t.lamps.recs.get i).output] t ∧
      t.stable =
        State.stable { s with
          lamps := { s.lamps with recs := s.lamps.recs.set i { s.lamps.recs.get i with manual := none } } })

/-- R15, R17, R84, R106, R122, R127, R143, R175, R176: CALIBRATE where a collection is under way or the calibration conditions hold
(a pump that starts within the event would empty the collector, R16); CLEAR releases trips, jams, lamps, BLOCKED and DRIFT, and
changes no phase where both limits set the jam again (R122). -/
def Obligations.CalibrateAndClear : Prop :=
  ∀ (dest : Addressing) (s : State), s.restartPending = false →
    ((s.node.state = .listen ∨ s.node.state = .active ∨ s.node.state = .isolated) →
      (s.level.collector.underWay = true ∨
        (s.level.dry.debounced = .dry ∧ (∃ k, s.level.settle = some k ∧ s.profile.settleTime * 1000000 ≤ k) ∧
          (s.level.stage = .dry ∨ s.level.stage = .wet) ∧ s.level.sensorFault = false)) →
      ∃ t, exec (.calibrate dest) s = .next t ∧ s.answers dest [0x20#8, 0x00#8] t ∧
        (t.pumps.p1.duty = 0 → t.pumps.p2.duty = 0 →
          (s.level.collector.underWay = true → t.level.collector = s.level.collector) ∧
          (s.level.collector.underWay = false → t.level.collector = ⟨true, 0, 0⟩ ∧ t.level.armed = false)) ∧
        t.stable = s.stable) ∧
    ((s.node.state = .listen ∨ s.node.state = .active ∨ s.node.state = .isolated ∨ s.node.state = .fallback) →
      ∃ t, exec (.clear dest) s = .next t ∧ s.answers dest [0x21#8, 0x00#8] t ∧
        (s.node.state ≠ .fallback →
          t.closure.blocked = false ∧
          t.closure.maxClearTimer = if s.closure.phase = .clearing then 0 else s.closure.maxClearTimer) ∧
        (s.node.state ≠ .fallback → s.profile.gate.present = true → s.gate.jam.isSome = true →
          s.gate.bothLimits = false →
          t.gate.jam = none ∧
          (s.gate.keyDrive = none → s.closure.phase.gateDemand = none →
            t.gate.travel = 0 ∧ t.gate.retries = s.profile.gate.stallRetries ∧
            t.gate.state =
              (if s.gate.closedLimit.active then .closed else if s.gate.openLimit.active then .opened
                else .held))) ∧
        (s.node.state.running = true → s.profile.gate.present = true → s.gate.bothLimits = true →
          s.gate.keyDrive = none →
          t.gate.jam = some .limits ∧ t.gate.state = .jammed ∧ t.gate.motor = none ∧
          (s.closure.phase = .sealing → t.closure.phase = .sealing)) ∧
        t.stable =
          State.stable { s with
            level := { s.level with drift := false }
            pumps := { s.pumps with
              p1 :=
                if s.profile.pump1.present = true ∨ s.node.state = .fallback then
                  { s.pumps.p1 with fault := .none, retry := none, latched := false, tripCount := 0 }
                else s.pumps.p1
              p2 :=
                if s.profile.pump2.present = true ∨ s.node.state = .fallback then
                  { s.pumps.p2 with fault := .none, retry := none, latched := false, tripCount := 0 }
                else s.pumps.p2 }
            lamps := { s.lamps with
              recs := Eight.ofFn fun i =>
                if (s.lamps.recs.get i).health = .failed ∨ (s.lamps.recs.get i).health = .shorted then
                  { s.lamps.recs.get i with health := .ok, filterCount := 0, shortRun := 0 }
                else s.lamps.recs.get i } })

/-- R168, R177, R179, R195 and sections 11.3 and 11.5: QUERY, DUMP and DUMP_AND_ZERO change nothing but the counters
DUMP_AND_ZERO zeroes, and are answered, where addressed, with the page or with the twenty counters as they stood, two characters
each; and what the codes and the items of the six pages are (times rounded down: assumption log 22; the demands and the common
level of FALLBACK: assumption logs 14 and 38). -/
def Obligations.QueryAndDumps : Prop :=
  ∀ (page : Byte) (s : State),
    (s.node.state = .listen ∨ s.node.state = .active ∨ s.node.state = .isolated ∨ s.node.state = .fallback) →
    s.restartPending = false →
    codesAre ∧ (page.toNat ≤ 5 → s.pageItems page = (s.queryItems page.toNat).map byte) ∧
    s.counters.bytes = s.counters.inOrder.flatMap (fun n => [byte (n / 256), byte n]) ∧
    (∀ dest, page.toNat ≤ 5 →
      ∃ t, exec (.query dest page) s = .next t ∧ t.stable = s.stable ∧
        (dest = .addressed → s.repliedTo ([0x30#8, 0x00#8, page] ++ s.pageItems page) t) ∧
        (dest = .broadcast → t.line.flight = s.line.flight ∧ t.line.waiting = s.line.waiting)) ∧
    (∀ dest, ∃ t, exec (.dump dest) s = .next t ∧ t.stable = s.stable ∧
        (dest = .addressed → s.repliedTo ([0x31#8, 0x00#8] ++ s.counters.bytes) t) ∧
        (dest = .broadcast → t.line.flight = s.line.flight ∧ t.line.waiting = s.line.waiting)) ∧
    (∀ dest, ∃ t, exec (.dumpAndZero dest) s = .next t ∧
        t.stable = State.stable { s with counters := Counters.zero } ∧
        t.counters.pump1Starts = 0 ∧ t.counters.pump2Starts = 0 ∧ t.counters.gateClosures = 0 ∧
        t.retention.items.counters = t.counters ∧
        (dest = .addressed →
          State.repliedTo { s with counters := Counters.zero } ([0x32#8, 0x00#8] ++ s.counters.bytes) t) ∧
        (dest = .broadcast →
          t.counters = Counters.zero ∧ t.line.flight = s.line.flight ∧ t.line.waiting = s.line.waiting))

/-- R155, R162, R165, R178, R180, R183, R189: a broadcast RESTART, and any in CLASH, begins START with valid retention and the
counters kept, a frame in transmission cut after its character under way; an addressed one waits for its REPLY to leave the
queue, by its completion, by a give-up, by a drop on arrival or for a STATUS marker, or by the discard at entry to CLASH. Until
then the node runs as before: every row acts as with no restart pending. The time each row still lacks passes within it
(assumption logs 1 and 25). -/
def Obligations.RestartBeginsStart : Prop :=
  ∀ (dest : Addressing) (f : Flight) (s : State), s.node.state ≠ .start →
    ((dest = .broadcast ∨ s.node.state = .clash) →
      ∃ t, exec (.restart dest) s = .next t ∧ t.warmRestarted ∧ s.frameCut t ∧
        t.retention = ⟨s.retainedItems, true⟩ ∧ t.counters = s.counters ∧
        t.pins = s.pins ∧ t.spi = s.spi ∧ t.pending = s.pending) ∧
    (dest = .addressed → s.node.state ≠ .clash → s.line.waiting.length < 4 → s.line.replyLeft = false →
      ∃ t, exec (.restart dest) s = .next t ∧ t.restartPending = true ∧ s.repliedTo [0x3F#8, 0x00#8] t ∧
        t.stable = State.stable { s with restartPending := true }) ∧
    (dest = .addressed → s.node.state ≠ .clash → 4 ≤ s.line.waiting.length →
      ∃ t, exec (.restart dest) s = .next t ∧ t.warmRestarted ∧ s.frameCut t ∧
        t.counters = { s.counters with queueDrops := min (s.counters.queueDrops + 1) 65535 }) ∧
    (s.restartPending = true → s.line.flight = some f → f.entry = .reply [0x3F#8, 0x00#8] → s.line.access = .none →
      0 < f.sent →
      (∃ t, exec .attemptComplete s = .next t ∧ t.warmRestarted ∧ t.line.txe = false ∧
        t.counters =
          { s.counters with
            replySent := min (s.counters.replySent + 1) 65535, deferrals := t.counters.deferrals }) ∧
      (∀ (readBack : Byte) (stopOk : Bool), 7 ≤ s.line.attempts →
        (readBack ≠ byteAt (f.frame.getD []) (f.sent - 1) ∨ stopOk = false) →
        ∃ t, exec (.collision readBack stopOk) s = .next t ∧ t.warmRestarted ∧ t.line.txe = false ∧
          t.counters =
            { s.counters with
              collisions := min (s.counters.collisions + 1) 65535, giveUps := min (s.counters.giveUps + 1) 65535
              deferrals := t.counters.deferrals })) ∧
    (s.restartPending = true → s.node.state ≠ .clash → s.line.flight = some f → 4 ≤ s.line.waiting.length →
      .status ∉ s.line.waiting → s.line.waiting.getLast? = some (.reply [0x3F#8, 0x00#8]) →
      ∃ t, exec .reportTimerExpiry s = .next t ∧ t.warmRestarted ∧
        (s.elapse (s.ownPeriod * 1000 - s.line.reportTimer)).frameCut t ∧
        t.counters = { s.counters with queueDrops := min (s.counters.queueDrops + 1) 65535 }) ∧
    (∀ (g : RxFrame) (dest seq : Byte) (payload : List Byte), s.restartPending = true →
      (s.node.state = .listen ∨ s.node.state = .active ∨ s.node.state = .isolated) →
      s.queued (.reply [0x3F#8, 0x00#8]) → s.line.transmitting = false → s.line.echo = false → s.line.rx = some g →
      validate g = .good kindStatus (stationByte s.node.station) dest seq payload →
      ∃ t, exec .frameClose s = .next t ∧ t.warmRestarted) ∧
    (∀ (c : Instr) (u : State), s.restartPending = true → exec c { s with restartPending := false } = .next u →
      ∃ t, exec c s = .next t ∧ (t.node.state ≠ .start → t = { u with restartPending := true }) ∧
        (u.node.state ≠ .start → s.line.replyLeft = false → ¬ State.mayTake { s with pending := [c] } .restart →
          s.restartReplies ≤ u.restartReplies → t = { u with restartPending := true }))

/-- R17, R168 to R170, R172 to R174: the commands a node ignores or refuses change nothing but the queue, which takes the REPLY
of an addressed one that is refused, with what that counts: with REFUSED-STATE in FALLBACK, for a gate that is not there, for a
signal channel, and for a calibration without its conditions; with BAD-ARGUMENT for an argument that fits nothing, a QUERY page
in FALLBACK too. -/
def Obligations.RefusedCommandsChangeNothing : Prop :=
  ∀ (dest : Addressing) (s : State), s.restartPending = false →
    (∀ c, (s.node.state = .start ∨ (s.node.state = .clash ∧ c ≠ .restart)) →
      ∃ t, exec (MaintCommand.row dest c) s = .next t ∧ s.turnedAway none t) ∧
    (∀ c, s.node.state = .fallback →
      (∀ p, c ≠ .query p) → c ≠ .dump → c ≠ .dumpAndZero → c ≠ .clear → c ≠ .restart →
      ∃ t, exec (MaintCommand.row dest c) s = .next t ∧ s.turnedAway (replyIf dest [c.code, 0x01#8]) t) ∧
    (∀ c, (s.node.state = .listen ∨ s.node.state = .active ∨ s.node.state = .isolated) →
      (((c = .gateStop ∨ c = .gateRelease) ∧ s.profile.gate.present = false) ∨
        (∃ (ch l : Byte) (i : Fin 8), (c = .lampManual ch l ∨ c = .lampAuto ch) ∧ ch.toNat = i.val + 1 ∧
          ((s.profile.lamps.get i).cls = .signalRed ∨ (s.profile.lamps.get i).cls = .signalAmber ∨
            (s.profile.lamps.get i).cls = .signalGreen)) ∨
        (c = .calibrate ∧ s.level.collector.underWay = false ∧
          (s.level.dry.debounced ≠ .dry ∨ (∀ k, s.level.settle = some k → k < s.profile.settleTime * 1000000) ∨
            (s.level.stage ≠ .dry ∧ s.level.stage ≠ .wet) ∨ s.level.sensorFault = true))) →
      ∃ t, exec (MaintCommand.row dest c) s = .next t ∧ s.turnedAway (replyIf dest [c.code, 0x01#8]) t) ∧
    (∀ c, (s.node.state = .listen ∨ s.node.state = .active ∨ s.node.state = .isolated) →
      ((∃ n d : Byte, (c = .pumpManual n d ∨ c = .pumpAuto n) ∧
          ∀ k : PumpNo, n.toNat = k.num → (s.profile.pump k).present = false) ∨
        (∃ ch l : Byte, (c = .lampManual ch l ∨ c = .lampAuto ch) ∧
          ∀ i : Fin 8, ch.toNat = i.val + 1 → (s.profile.lamps.get i).cls = .unused) ∨
        (∃ page : Byte, c = .query page ∧ 5 < page.toNat)) →
      ∃ t, exec (MaintCommand.row dest c) s = .next t ∧ s.turnedAway (replyIf dest [c.code, 0x03#8]) t) ∧
    (∀ page : Byte, s.node.state = .fallback → 5 < page.toNat →
      ∃ t, exec (.query dest page) s = .next t ∧ s.turnedAway (replyIf dest [0x30#8, 0x03#8]) t)
end

