-- ==== Sys2Proof/Laws/State.lean ====
section
/-! SUPPORT. The small lemmas of the data: reading what a collection was made of or was set to. -/

set_option Elab.async false

namespace Sys2Proof

/-- Every index of a channel is one of eight. -/
theorem forall_channel {p : Fin 8 → Prop} :
    (∀ i, p i) ↔ p 0 ∧ p 1 ∧ p 2 ∧ p 3 ∧ p 4 ∧ p 5 ∧ p 6 ∧ p 7 :=
  ⟨fun h => ⟨h 0, h 1, h 2, h 3, h 4, h 5, h 6, h 7⟩, fun ⟨h0, h1, h2, h3, h4, h5, h6, h7⟩ i => by
    match i with
    | 0 => exact h0
    | 1 => exact h1
    | 2 => exact h2
    | 3 => exact h3
    | 4 => exact h4
    | 5 => exact h5
    | 6 => exact h6
    | 7 => exact h7⟩

@[simp] theorem Eight.get_ofFn {α : Type} (f : Fin 8 → α) (i : Fin 8) : (Eight.ofFn f).get i = f i := by
  match i with
  | 0 | 1 | 2 | 3 | 4 | 5 | 6 | 7 => rfl

@[simp] theorem Eight.get_set {α : Type} (v : Eight α) (i j : Fin 8) (a : α) :
    (v.set i a).get j = if j = i then a else v.get j := by
  simp [Eight.set]

@[simp] theorem Eight.get_replicate {α : Type} (a : α) (i : Fin 8) : (Eight.replicate a).get i = a := by
  match i with
  | 0 | 1 | 2 | 3 | 4 | 5 | 6 | 7 => rfl

@[simp] theorem Fifteen.get_ofFn {α : Type} (f : Fin 15 → α) (i : Fin 15) : (Fifteen.ofFn f).get i = f i := by
  match i with
  | 0 | 1 | 2 | 3 | 4 | 5 | 6 | 7 | 8 | 9 | 10 | 11 | 12 | 13 | 14 => rfl

@[simp] theorem Fifteen.get_set {α : Type} (v : Fifteen α) (i j : Fin 15) (a : α) :
    (v.set i a).get j = if j = i then a else v.get j := by
  simp [Fifteen.set]

@[simp] theorem Fifteen.get_replicate {α : Type} (a : α) (i : Fin 15) : (Fifteen.replicate a).get i = a := by
  match i with
  | 0 | 1 | 2 | 3 | 4 | 5 | 6 | 7 | 8 | 9 | 10 | 11 | 12 | 13 | 14 => rfl

@[simp] theorem Fifteen.set_set {α : Type} (v : Fifteen α) (i : Fin 15) (a b : α) :
    (v.set i a).set i b = v.set i b := by
  unfold Fifteen.set
  congr 1
  funext j
  by_cases h : j = i <;> simp [h]

/-- A collection of eight made of its own channels is itself. -/
@[simp] theorem Eight.ofFn_get {α : Type} (v : Eight α) : (Eight.ofFn fun i => v.get i) = v := rfl

/-- A collection of fifteen made of its own stations is itself. -/
@[simp] theorem Fifteen.ofFn_get {α : Type} (v : Fifteen α) : (Fifteen.ofFn fun i => v.get i) = v := rfl

namespace Machine

/-- Every station is one of the fifteen. -/
theorem mem_stations (i : Fin 15) : i ∈ stations := by
  match i with
  | 0 | 1 | 2 | 3 | 4 | 5 | 6 | 7 | 8 | 9 | 10 | 11 | 12 | 13 | 14 => decide

/-- Every channel is one of the eight. -/
theorem mem_channels (i : Fin 8) : i ∈ channels := by
  match i with
  | 0 | 1 | 2 | 3 | 4 | 5 | 6 | 7 => decide

/-- The peers are the other stations. -/
theorem mem_peers {own i : Fin 15} : i ∈ peers own ↔ i ≠ own := by
  simp [peers, mem_stations]

@[simp] theorem Pumps.get_put (u : Pumps) (n m : PumpNo) (r : PumpRec) :
    (u.put n r).get m = if m = n then r else u.get m := by
  cases n <;> cases m <;> rfl

@[simp] theorem PumpNo.other_ne (n : PumpNo) : n.other ≠ n := by cases n <;> decide

@[simp] theorem PumpNo.other_other (n : PumpNo) : n.other.other = n := by cases n <;> rfl

@[simp] theorem Picture.get_put (c : Picture) (i j : Fin 15) (r : StationRecord) :
    (c.put i r).records.get j = if j = i then r else c.records.get j := by
  simp [Picture.put]

end Machine

end Sys2Proof
end

