-- ==== Sys2Proof/Laws/Ops.lean ====
section
/-! SUPPORT. What the shared operations of Machine/Ops.lean can do: the passing of time changes times and reads only (R1
and the other timers), runs and agreement counts stay within their limits, the counter bank never passes 65535 (R178), and
the end of an event only copies the retained items (R188) unless a restart begins (R180). -/

set_option Elab.async false

namespace Sys2Proof.Machine

open Sys2Proof

/-! ### The passing of time -/

theorem SwitchInput.timeless_elapse (v : SwitchPos) (k d : Time) (w : SwitchInput) :
    (w.elapse v k d).timeless = w.timeless := rfl

theorem PumpRec.timeless_elapse (pp : PumpProfile) (v : SwitchPos) (c : Nat) (k d : Time) (r : PumpRec) :
    (r.elapse pp v c k d).timeless = r.timeless := by
  cases r with
  | mk state cause fault remote manualDuty want ceiling duty rest retry =>
    cases rest <;> cases retry <;> cases h : pp.present <;> simp [PumpRec.elapse, h] <;> rfl

theorem PumpRec.timeless_runElapse (v : SwitchPos) (k d : Time) (r : PumpRec) :
    (r.runElapse v k d).timeless = r.timeless := rfl

/-- The gate record without its times and reads. -/
theorem Gate.timeless_elapse (p : GateProfile) (q : Pins) (k d : Time) (g : Gate) :
    { g.elapse p q k d with
      travel := 0, backoff := (g.elapse p q k d).backoff.map fun _ => 0, stallRun := 0
      openLimit := (g.elapse p q k d).openLimit.timeless, closedLimit := (g.elapse p q k d).closedLimit.timeless
      key := (g.elapse p q k d).key.timeless, code := 0 } =
    { g with
      travel := 0, backoff := g.backoff.map fun _ => 0, stallRun := 0, openLimit := g.openLimit.timeless
      closedLimit := g.closedLimit.timeless, key := g.key.timeless, code := 0 } := by
  unfold Gate.elapse
  cases p.present <;> cases hb : g.backoff <;> simp [Gate.runTimes, Gate.readInputs, hb] <;> exact ⟨rfl, rfl, rfl⟩

theorem StationRecord.timeless_elapse (o : Bool) (d : Time) (r : StationRecord) :
    (r.elapse o d).timeless = r.timeless := by
  unfold StationRecord.elapse
  split <;> rfl

theorem DryStageTimer.timeless_elapse (d : Time) (t : DryStageTimer) : (t.elapse d).timeless = t.timeless := by
  cases t <;> rfl

theorem timeless_elapseFallback (d : Time) (s : State) : (s.elapseFallback d).timeless = s.timeless := rfl

theorem timeless_elapseRunning (d : Time) (s : State) : (s.elapseRunning d).timeless = s.timeless := by
  simp only [State.timeless, State.elapseRunning, LevelMonitor.elapse, Picture.elapse, Allotment.elapse, Pumps.elapse,
    Closure.elapse, Gate.timeless_elapse, Lamps.elapse, Line.elapse, Node.elapse, PumpRec.timeless_elapse, Fifteen.get_ofFn,
    StationRecord.timeless_elapse, Option.map_map, Function.comp_def, DryStageTimer.timeless_elapse]
  split <;> simp [Option.map_map, Function.comp_def]

/-- An interval in which no event falls changes times only. -/
theorem timeless_elapse (d : Time) (s : State) : (s.elapse d).timeless = s.timeless := by
  unfold State.elapse
  split
  · rfl
  · exact timeless_elapseFallback d s
  · exact timeless_elapseRunning d s

@[simp] theorem elapse_pins (d : Time) (s : State) : (s.elapse d).pins = s.pins := by
  have h := congrArg (fun u : State => u.pins) (timeless_elapse d s)
  exact h

@[simp] theorem elapse_profile (d : Time) (s : State) : (s.elapse d).profile = s.profile := by
  have h := congrArg (fun u : State => u.profile) (timeless_elapse d s)
  exact h

@[simp] theorem elapse_spi (d : Time) (s : State) : (s.elapse d).spi = s.spi := by
  have h := congrArg (fun u : State => u.spi) (timeless_elapse d s)
  exact h

@[simp] theorem elapse_demands (d : Time) (s : State) : (s.elapse d).demands = s.demands := by
  have h := congrArg (fun u : State => u.demands) (timeless_elapse d s)
  exact h

@[simp] theorem elapse_counters (d : Time) (s : State) : (s.elapse d).counters = s.counters := by
  have h := congrArg (fun u : State => u.counters) (timeless_elapse d s)
  exact h

@[simp] theorem elapse_retention (d : Time) (s : State) : (s.elapse d).retention = s.retention := by
  have h := congrArg (fun u : State => u.retention) (timeless_elapse d s)
  exact h

@[simp] theorem elapse_restartPending (d : Time) (s : State) : (s.elapse d).restartPending = s.restartPending := by
  have h := congrArg (fun u : State => u.restartPending) (timeless_elapse d s)
  exact h

@[simp] theorem elapse_freeIndex (d : Time) (s : State) : (s.elapse d).freeIndex = s.freeIndex := by
  have h := congrArg (fun u : State => u.freeIndex) (timeless_elapse d s)
  exact h

@[simp] theorem elapse_pending (d : Time) (s : State) : (s.elapse d).pending = s.pending := by
  have h := congrArg (fun u : State => u.pending) (timeless_elapse d s)
  exact h

@[simp] theorem elapse_nodeState (d : Time) (s : State) : (s.elapse d).node.state = s.node.state := by
  have h := congrArg (fun u : State => u.node.state) (timeless_elapse d s)
  exact h

@[simp] theorem elapse_station (d : Time) (s : State) : (s.elapse d).node.station = s.node.station := by
  have h := congrArg (fun u : State => u.node.station) (timeless_elapse d s)
  exact h

@[simp] theorem elapse_retentionValid (d : Time) (s : State) : (s.elapse d).node.retentionValid = s.node.retentionValid := by
  have h := congrArg (fun u : State => u.node.retentionValid) (timeless_elapse d s)
  exact h

@[simp] theorem elapse_profileValid (d : Time) (s : State) : (s.elapse d).node.profileValid = s.node.profileValid := by
  have h := congrArg (fun u : State => u.node.profileValid) (timeless_elapse d s)
  exact h

@[simp] theorem elapse_ring (d : Time) (s : State) : (s.elapse d).level.ring = s.level.ring := by
  have h := congrArg (fun u : State => u.level.ring) (timeless_elapse d s)
  exact h

@[simp] theorem elapse_zeroCode (d : Time) (s : State) : (s.elapse d).level.zeroCode = s.level.zeroCode := by
  have h := congrArg (fun u : State => u.level.zeroCode) (timeless_elapse d s)
  exact h

@[simp] theorem elapse_sensorFault (d : Time) (s : State) : (s.elapse d).level.sensorFault = s.level.sensorFault := by
  have h := congrArg (fun u : State => u.level.sensorFault) (timeless_elapse d s)
  exact h

@[simp] theorem elapse_outRun (d : Time) (s : State) : (s.elapse d).level.outRun = s.level.outRun := by
  have h := congrArg (fun u : State => u.level.outRun) (timeless_elapse d s)
  exact h

@[simp] theorem elapse_recoveryRun (d : Time) (s : State) : (s.elapse d).level.recoveryRun = s.level.recoveryRun := by
  have h := congrArg (fun u : State => u.level.recoveryRun) (timeless_elapse d s)
  exact h

@[simp] theorem elapse_levelValue (d : Time) (s : State) : (s.elapse d).level.level = s.level.level := by
  have h := congrArg (fun u : State => u.level.level) (timeless_elapse d s)
  exact h

@[simp] theorem elapse_dryFloat (d : Time) (s : State) : (s.elapse d).level.dry = s.level.dry := by
  have h := congrArg (fun u : State => u.level.dry) (timeless_elapse d s)
  exact h

@[simp] theorem elapse_highFloat (d : Time) (s : State) : (s.elapse d).level.high = s.level.high := by
  have h := congrArg (fun u : State => u.level.high) (timeless_elapse d s)
  exact h

@[simp] theorem elapse_stage (d : Time) (s : State) : (s.elapse d).level.stage = s.level.stage := by
  have h := congrArg (fun u : State => u.level.stage) (timeless_elapse d s)
  exact h

@[simp] theorem elapse_drift (d : Time) (s : State) : (s.elapse d).level.drift = s.level.drift := by
  have h := congrArg (fun u : State => u.level.drift) (timeless_elapse d s)
  exact h

@[simp] theorem elapse_armed (d : Time) (s : State) : (s.elapse d).level.armed = s.level.armed := by
  have h := congrArg (fun u : State => u.level.armed) (timeless_elapse d s)
  exact h

@[simp] theorem elapse_collector (d : Time) (s : State) : (s.elapse d).level.collector = s.level.collector := by
  have h := congrArg (fun u : State => u.level.collector) (timeless_elapse d s)
  exact h

@[simp] theorem elapse_expired (d : Time) (s : State) : (s.elapse d).picture.expired = s.picture.expired := by
  have h := congrArg (fun u : State => u.picture.expired) (timeless_elapse d s)
  exact h

@[simp] theorem elapse_source (d : Time) (s : State) : (s.elapse d).allot.source = s.allot.source := by
  have h := congrArg (fun u : State => u.allot.source) (timeless_elapse d s)
  exact h

@[simp] theorem elapse_ownSag (d : Time) (s : State) : (s.elapse d).allot.ownSag = s.allot.ownSag := by
  have h := congrArg (fun u : State => u.allot.ownSag) (timeless_elapse d s)
  exact h

@[simp] theorem elapse_shares (d : Time) (s : State) : (s.elapse d).allot.shares = s.allot.shares := by
  have h := congrArg (fun u : State => u.allot.shares) (timeless_elapse d s)
  exact h

@[simp] theorem elapse_usable (d : Time) (s : State) : (s.elapse d).allot.usable = s.allot.usable := by
  have h := congrArg (fun u : State => u.allot.usable) (timeless_elapse d s)
  exact h

@[simp] theorem elapse_overrun (d : Time) (s : State) : (s.elapse d).allot.overrun = s.allot.overrun := by
  have h := congrArg (fun u : State => u.allot.overrun) (timeless_elapse d s)
  exact h

@[simp] theorem elapse_want (d : Time) (s : State) : (s.elapse d).pumps.want = s.pumps.want := by
  have h := congrArg (fun u : State => u.pumps.want) (timeless_elapse d s)
  exact h

@[simp] theorem elapse_settled (d : Time) (s : State) : (s.elapse d).pumps.settled = s.pumps.settled := by
  have h := congrArg (fun u : State => u.pumps.settled) (timeless_elapse d s)
  exact h

@[simp] theorem elapse_lead (d : Time) (s : State) : (s.elapse d).pumps.lead = s.pumps.lead := by
  have h := congrArg (fun u : State => u.pumps.lead) (timeless_elapse d s)
  exact h

@[simp] theorem elapse_phase (d : Time) (s : State) : (s.elapse d).closure.phase = s.closure.phase := by
  have h := congrArg (fun u : State => u.closure.phase) (timeless_elapse d s)
  exact h

@[simp] theorem elapse_own (d : Time) (s : State) : (s.elapse d).closure.own = s.closure.own := by
  have h := congrArg (fun u : State => u.closure.own) (timeless_elapse d s)
  exact h

@[simp] theorem elapse_outside (d : Time) (s : State) : (s.elapse d).closure.outside = s.closure.outside := by
  have h := congrArg (fun u : State => u.closure.outside) (timeless_elapse d s)
  exact h

@[simp] theorem elapse_blocked (d : Time) (s : State) : (s.elapse d).closure.blocked = s.closure.blocked := by
  have h := congrArg (fun u : State => u.closure.blocked) (timeless_elapse d s)
  exact h

@[simp] theorem elapse_gateState (d : Time) (s : State) : (s.elapse d).gate.state = s.gate.state := by
  have h := congrArg (fun u : State => u.gate.state) (timeless_elapse d s)
  exact h

@[simp] theorem elapse_gateDir (d : Time) (s : State) : (s.elapse d).gate.dir = s.gate.dir := by
  have h := congrArg (fun u : State => u.gate.dir) (timeless_elapse d s)
  exact h

@[simp] theorem elapse_holdCause (d : Time) (s : State) : (s.elapse d).gate.holdCause = s.gate.holdCause := by
  have h := congrArg (fun u : State => u.gate.holdCause) (timeless_elapse d s)
  exact h

@[simp] theorem elapse_commandHold (d : Time) (s : State) : (s.elapse d).gate.commandHold = s.gate.commandHold := by
  have h := congrArg (fun u : State => u.gate.commandHold) (timeless_elapse d s)
  exact h

@[simp] theorem elapse_gateDemand (d : Time) (s : State) : (s.elapse d).gate.demand = s.gate.demand := by
  have h := congrArg (fun u : State => u.gate.demand) (timeless_elapse d s)
  exact h

@[simp] theorem elapse_keyDrive (d : Time) (s : State) : (s.elapse d).gate.keyDrive = s.gate.keyDrive := by
  have h := congrArg (fun u : State => u.gate.keyDrive) (timeless_elapse d s)
  exact h

@[simp] theorem elapse_keyStalled (d : Time) (s : State) : (s.elapse d).gate.keyStalled = s.gate.keyStalled := by
  have h := congrArg (fun u : State => u.gate.keyStalled) (timeless_elapse d s)
  exact h

@[simp] theorem elapse_retries (d : Time) (s : State) : (s.elapse d).gate.retries = s.gate.retries := by
  have h := congrArg (fun u : State => u.gate.retries) (timeless_elapse d s)
  exact h

@[simp] theorem elapse_jam (d : Time) (s : State) : (s.elapse d).gate.jam = s.gate.jam := by
  have h := congrArg (fun u : State => u.gate.jam) (timeless_elapse d s)
  exact h

@[simp] theorem elapse_keyBarred (d : Time) (s : State) : (s.elapse d).gate.keyBarred = s.gate.keyBarred := by
  have h := congrArg (fun u : State => u.gate.keyBarred) (timeless_elapse d s)
  exact h

@[simp] theorem elapse_openLimit (d : Time) (s : State) :
    (s.elapse d).gate.openLimit.active = s.gate.openLimit.active := by
  have h := congrArg (fun u : State => u.gate.openLimit.active) (timeless_elapse d s)
  exact h

@[simp] theorem elapse_closedLimit (d : Time) (s : State) :
    (s.elapse d).gate.closedLimit.active = s.gate.closedLimit.active := by
  have h := congrArg (fun u : State => u.gate.closedLimit.active) (timeless_elapse d s)
  exact h

@[simp] theorem elapse_key (d : Time) (s : State) : (s.elapse d).gate.key.debounced = s.gate.key.debounced := by
  have h := congrArg (fun u : State => u.gate.key.debounced) (timeless_elapse d s)
  exact h

@[simp] theorem elapse_strapsDue (d : Time) (s : State) : (s.elapse d).node.strapsDue = s.node.strapsDue := by
  have h := congrArg (fun u : State => u.node.strapsDue) (timeless_elapse d s)
  exact h

@[simp] theorem elapse_lampRecs (d : Time) (s : State) : (s.elapse d).lamps.recs = s.lamps.recs := by
  have h := congrArg (fun u : State => u.lamps.recs) (timeless_elapse d s)
  exact h

@[simp] theorem elapse_band (d : Time) (s : State) : (s.elapse d).lamps.band = s.lamps.band := by
  have h := congrArg (fun u : State => u.lamps.band) (timeless_elapse d s)
  exact h

@[simp] theorem elapse_bandFormed (d : Time) (s : State) : (s.elapse d).lamps.bandFormed = s.lamps.bandFormed := by
  have h := congrArg (fun u : State => u.lamps.bandFormed) (timeless_elapse d s)
  exact h

@[simp] theorem elapse_common (d : Time) (s : State) : (s.elapse d).lamps.common = s.lamps.common := by
  have h := congrArg (fun u : State => u.lamps.common) (timeless_elapse d s)
  exact h

@[simp] theorem elapse_aspect (d : Time) (s : State) : (s.elapse d).lamps.aspect = s.lamps.aspect := by
  have h := congrArg (fun u : State => u.lamps.aspect) (timeless_elapse d s)
  exact h

@[simp] theorem elapse_degraded (d : Time) (s : State) : (s.elapse d).lamps.degraded = s.lamps.degraded := by
  have h := congrArg (fun u : State => u.lamps.degraded) (timeless_elapse d s)
  exact h

@[simp] theorem elapse_amberCounter (d : Time) (s : State) : (s.elapse d).lamps.amberCounter = s.lamps.amberCounter := by
  have h := congrArg (fun u : State => u.lamps.amberCounter) (timeless_elapse d s)
  exact h

@[simp] theorem elapse_guidanceCounter (d : Time) (s : State) : (s.elapse d).lamps.guidanceCounter = s.lamps.guidanceCounter := by
  have h := congrArg (fun u : State => u.lamps.guidanceCounter) (timeless_elapse d s)
  exact h

@[simp] theorem elapse_waiting (d : Time) (s : State) : (s.elapse d).line.waiting = s.line.waiting := by
  have h := congrArg (fun u : State => u.line.waiting) (timeless_elapse d s)
  exact h

@[simp] theorem elapse_flight (d : Time) (s : State) : (s.elapse d).line.flight = s.line.flight := by
  have h := congrArg (fun u : State => u.line.flight) (timeless_elapse d s)
  exact h

@[simp] theorem elapse_attempts (d : Time) (s : State) : (s.elapse d).line.attempts = s.line.attempts := by
  have h := congrArg (fun u : State => u.line.attempts) (timeless_elapse d s)
  exact h

@[simp] theorem elapse_newer (d : Time) (s : State) : (s.elapse d).line.newer = s.line.newer := by
  have h := congrArg (fun u : State => u.line.newer) (timeless_elapse d s)
  exact h

@[simp] theorem elapse_access (d : Time) (s : State) : (s.elapse d).line.access = s.line.access := by
  have h := congrArg (fun u : State => u.line.access) (timeless_elapse d s)
  exact h

@[simp] theorem elapse_lastChar (d : Time) (s : State) : (s.elapse d).line.lastChar = s.line.lastChar := by
  have h := congrArg (fun u : State => u.line.lastChar) (timeless_elapse d s)
  exact h

@[simp] theorem elapse_ownSeq (d : Time) (s : State) : (s.elapse d).line.ownSeq = s.line.ownSeq := by
  have h := congrArg (fun u : State => u.line.ownSeq) (timeless_elapse d s)
  exact h

@[simp] theorem elapse_lastShares (d : Time) (s : State) : (s.elapse d).line.lastShares = s.line.lastShares := by
  have h := congrArg (fun u : State => u.line.lastShares) (timeless_elapse d s)
  exact h

@[simp] theorem elapse_rx (d : Time) (s : State) : (s.elapse d).line.rx = s.line.rx := by
  have h := congrArg (fun u : State => u.line.rx) (timeless_elapse d s)
  exact h

@[simp] theorem elapse_echo (d : Time) (s : State) : (s.elapse d).line.echo = s.line.echo := by
  have h := congrArg (fun u : State => u.line.echo) (timeless_elapse d s)
  exact h

@[simp] theorem elapse_replyLeft (d : Time) (s : State) : (s.elapse d).line.replyLeft = s.line.replyLeft := by
  have h := congrArg (fun u : State => u.line.replyLeft) (timeless_elapse d s)
  exact h

/-- The items of a pump that no passing of time changes. -/
theorem elapse_pump (d : Time) (s : State) (n : PumpNo) :
    ((s.elapse d).pumps.get n).timeless = (s.pumps.get n).timeless := by
  have h := congrArg (fun u : State => u.pumps.get n) (timeless_elapse d s)
  cases n <;> exact h

/-- A station record over an interval: its heard timer alone may change. -/
theorem elapse_record (d : Time) (s : State) (i : Fin 15) :
    ((s.elapse d).picture.records.get i).timeless = (s.picture.records.get i).timeless := by
  have h := congrArg (fun u : State => u.picture.records.get i) (timeless_elapse d s)
  simpa [State.timeless] using h

/-- Whether a back-off or a reopen hold runs does not change over an interval. -/
theorem elapse_backoff (d : Time) (s : State) : (s.elapse d).gate.backoff.isSome = s.gate.backoff.isSome := by
  have h := congrArg (fun u : State => u.gate.backoff.isSome) (timeless_elapse d s)
  simpa [State.timeless] using h

theorem elapse_reopenHold (d : Time) (s : State) :
    (s.elapse d).closure.reopenHold.isSome = s.closure.reopenHold.isSome := by
  have h := congrArg (fun u : State => u.closure.reopenHold.isSome) (timeless_elapse d s)
  simpa [State.timeless] using h

theorem elapse_sagHold (d : Time) (s : State) : (s.elapse d).allot.sagHold.isSome = s.allot.sagHold.isSome := by
  have h := congrArg (fun u : State => u.allot.sagHold.isSome) (timeless_elapse d s)
  simpa [State.timeless] using h

/-! ### Reads and runs -/

theorem upTo_le (limit t d : Time) : upTo limit t d ≤ limit := Nat.min_le_right _ _

theorem runWhile_le (c : Bool) (limit t d : Time) : runWhile c limit t d ≤ limit := by
  unfold runWhile
  split
  · exact upTo_le _ _ _
  · exact Nat.zero_le _

/-- A run never passes its limit, whatever is read (R46, R97, R123). -/
theorem readRun_le (period limit clock : Time) (was now : Bool) (t d : Time) :
    readRun period limit clock was now t d ≤ limit := by
  unfold readRun
  split <;> exact runWhile_le _ _ _ _

/-- A filter's candidate time never passes its limit where it has not yet (R45, R90). -/
theorem filterElapse_le {α : Type} [DecidableEq α] (period limit clock : Time) (pin filtered : α) (held : Option Time)
    (d : Time) {k : Time} (h : filterElapse period limit clock pin filtered held d = some k) : k ≤ limit := by
  unfold filterElapse at h
  split at h
  all_goals
    split at h
    all_goals simp at h
    all_goals (rw [← h]; exact upTo_le _ _ _)

/-- An agreement count stays within three (R65, R113). -/
theorem agree_count_le {α : Type} [DecidableEq α] (k : Nat) (v : α) (candidate : Option α) {count : Nat}
    (h : count ≤ 3) : (agree k v candidate count).2 ≤ 3 := by
  unfold agree
  repeat' split
  · exact h
  · exact Nat.min_le_right _ _
  · exact Nat.min_le_right _ _

theorem readsLeft_le {α : Type} [DecidableEq α] (candidate : Option α) (count : Nat) (v : α) :
    readsLeft candidate count v ≤ 3 := by
  unfold readsLeft
  split <;> omega

/-- No read falls in no time. -/
@[simp] theorem readsIn_zero (period clock : Time) : readsIn period clock 0 = 0 := by simp [readsIn]

/-! ### The counter bank -/

theorem bump_le (n : Nat) : bump n ≤ 65535 := Nat.min_le_right _ _

theorem Counters.bounded_zero : Counters.zero.bounded := by
  simp [Counters.bounded, Counters.zero, Counters.toList]

theorem Counters.bounded_raise {c : Counters} (h : c.bounded) (n : CounterName) : (c.raise n).bounded := by
  simp only [Counters.bounded, Counters.toList, List.mem_cons, List.not_mem_nil, or_false, forall_eq_or_imp,
    forall_eq] at h
  cases n <;>
    simp only [Counters.raise, Counters.bounded, Counters.toList, List.mem_cons, List.not_mem_nil, or_false,
      forall_eq_or_imp, forall_eq, bump_le, h, and_self]

theorem Counters.bounded_raiseIf {c : Counters} (h : c.bounded) (n : CounterName) (b : Bool) :
    (c.raiseIf n b).bounded := by
  unfold Counters.raiseIf
  split
  · exact Counters.bounded_raise h n
  · exact h

theorem Counters.bounded_raiseTimes {c : Counters} (h : c.bounded) (n : CounterName) (k : Nat) :
    (c.raiseTimes n k).bounded := by
  induction k generalizing c with
  | zero => exact h
  | succ k ih => exact ih (Counters.bounded_raise h n)

/-! ### The end of an event -/

/-- Without restart pending, the end of an event copies the retained items and changes nothing else. -/
theorem finish_of_not_pending {s : State} (h : s.restartPending = false) :
    s.finish = State.copyRetained { s with line := { s.line with replyLeft := false } } := by
  simp [State.finish, h]

/-- Copying the retained items changes the retention domain only. -/
theorem copyRetained_retention (s : State) : { s.copyRetained with retention := s.retention } = s := by
  unfold State.copyRetained
  split <;> rfl

/-! ### Sag and the key -/

/-- While sag is seen the sag-hold timer is put to 0 (R47). -/
theorem updateSag_of_seen {s : State} (h : s.sagSeen = true) : s.updateSag.allot.sagHold = some 0 := by
  simp [State.updateSag, h]

/-- Else it is left as it is. -/
theorem updateSag_of_not_seen {s : State} (h : s.sagSeen = false) : s.updateSag = s := by
  simp [State.updateSag, h]

@[simp] theorem KeyPos.drive_auto : KeyPos.auto.drive = none := rfl

@[simp] theorem KeyPos.drive_turned (d : Dir) : (KeyPos.turned d).drive = some d := rfl

/-! ### A frame cut -/

/-- A cut frame leaves the character under way, which goes on to its end (R183). -/
@[simp] theorem Line.underWay_cut (l : Line) : l.cut.underWay = l.underWay := rfl

@[simp] theorem Line.txe_cut (l : Line) : l.cut.txe = l.underWay.isSome := rfl

@[simp] theorem Line.txd_cut (l : Line) : l.cut.txd = l.txd := rfl

/-- The same at entry to CLASH (R165). -/
@[simp] theorem Line.underWay_flush (l : Line) : l.flush.underWay = l.underWay := rfl

@[simp] theorem Line.txe_flush (l : Line) : l.flush.txe = l.underWay.isSome := rfl

@[simp] theorem Line.txd_flush (l : Line) : l.flush.txd = l.txd := rfl

/-- A line that drives nothing shows the level of rest. -/
theorem Line.txd_of_not_txe {l : Line} (h : l.txe = false) : l.txd = true := by
  unfold Line.txe at h
  unfold Line.txd
  cases hu : l.underWay <;> simp_all

end Sys2Proof.Machine
end

