-- ==== Sys2Proof/Laws/Settle.lean ====
section
/-! SUPPORT. What bringing an event to its end can do: no stage of `settle` touches what `kept` shows, each stage's other
effects, and what a settled state satisfies (R56, R74, R94, R118, R137). -/

set_option Elab.async false

namespace Sys2Proof.Machine

open Sys2Proof

/-! ### What every stage keeps -/

@[simp] theorem PumpRec.kept_apply (d : Derived) (r : PumpRec) : (r.apply d).kept = r.kept := rfl

@[simp] theorem LampRec.kept_setOutput (r : LampRec) (n : Nat) : LampRec.kept { r with output := n } = r.kept := rfl

@[simp] theorem Counters.kept_pump1Starts (c : Counters) (b : Bool) : (c.raiseIf .pump1Starts b).kept = c.kept := by
  cases b <;> rfl

@[simp] theorem Counters.kept_pump2Starts (c : Counters) (b : Bool) : (c.raiseIf .pump2Starts b).kept = c.kept := by
  cases b <;> rfl

@[simp] theorem Counters.kept_gateClosures (c : Counters) (b : Bool) : (c.raiseIf .gateClosures b).kept = c.kept := by
  cases b <;> rfl

@[simp] theorem Counters.kept_deferrals (c : Counters) (b : Bool) : (c.raiseIf .deferrals b).kept = c.kept := by
  cases b <;> rfl

@[simp] theorem Counters.kept_queueDrops (c : Counters) (b : Bool) : (c.raiseIf .queueDrops b).kept = c.kept := by
  cases b <;> rfl

theorem kept_formOrigins (s : State) : s.formOrigins.kept = s.kept := rfl

theorem kept_updateSag (s : State) : s.updateSag.kept = s.kept := by
  unfold State.updateSag
  split <;> rfl

theorem Closure.actOnUnion_kept (w : Bool) (c : Closure) :
    { c.actOnUnion w with phase := .opened, own := Origins.empty, warnTimer := 0, reopenHold := none, blocked := false } =
      { c with phase := .opened, own := Origins.empty, warnTimer := 0, reopenHold := none, blocked := false } := by
  unfold Closure.actOnUnion
  split <;> (try split) <;> rfl

theorem Closure.actOnGate_kept (g : Option GateState) (c : Closure) :
    { c.actOnGate g with phase := .opened, own := Origins.empty, warnTimer := 0, reopenHold := none, blocked := false } =
      { c with phase := .opened, own := Origins.empty, warnTimer := 0, reopenHold := none, blocked := false } := by
  unfold Closure.actOnGate
  split <;> (try split) <;> rfl

theorem kept_actOnUnion (s : State) : s.actOnUnion.kept = s.kept := by
  simp only [State.kept, State.actOnUnion, Closure.actOnUnion_kept]

theorem kept_handDemand (s : State) : s.handDemand.kept = s.kept := rfl

theorem kept_actOnGate (s : State) : s.actOnGate.kept = s.kept := by
  unfold State.actOnGate
  rw [kept_handDemand]
  simp only [State.kept, Closure.actOnGate_kept]

/-- What the resolution of the gate's motion never changes. -/
def Gate.kept (g : Gate) : Gate :=
  { g with
    state := .unknown, dir := none, holdCause := none, demand := none, travel := 0, retries := 0, backoff := none,
    stallRun := 0, jam := none, keyBarred := false }

theorem Gate.kept_resolve (p : GateProfile) (g : Gate) : (g.resolve p).kept = g.kept := by
  have h0 : g.formLimitsJam.kept = g.kept := by unfold Gate.formLimitsJam; split <;> rfl
  have hk : ∀ (x : Gate) d, (x.underKey d).kept = x.kept := by
    intro x d; unfold Gate.underKey; split <;> (try split) <;> rfl
  have hh : ∀ x : Gate, x.underHold.kept = x.kept := by intro x; unfold Gate.underHold; split <;> rfl
  have hr : ∀ x : Gate, x.atRest.kept = x.kept := by intro x; unfold Gate.atRest; split <;> rfl
  have hd : ∀ (x : Gate) d, (x.underDemand p d).kept = x.kept := by
    intro x d; unfold Gate.underDemand; split
    · rfl
    · dsimp only; split <;> rfl
  unfold Gate.resolve
  dsimp only
  split
  · rw [hk, h0]
  · split
    · exact h0
    · split
      · rw [hh, h0]
      · split
        · rw [hd, h0]
        · rw [hr, h0]

theorem Gate.kept_applyShare (p : GateProfile) (n : Nat) (g : Gate) : (g.applyShare p n).kept = g.kept := by
  unfold Gate.applyShare
  repeat' split
  all_goals rfl

theorem Gate.kept_settleStall (a g : Gate) : (Gate.settleStall a g).kept = g.kept := by
  unfold Gate.settleStall
  split <;> rfl

theorem Gate.kept_deriveFallback (g : Gate) : g.deriveFallback.kept = g.kept := by
  unfold Gate.deriveFallback
  repeat' split
  all_goals rfl

theorem kept_putGate {g : Gate} {s : State} (h : g.kept = s.gate.kept) : (s.putGate g).kept = s.kept := by
  have e : ∀ x : Gate, { x with
      state := .unknown, dir := none, holdCause := none, demand := none, travel := 0, retries := 0, backoff := none,
      stallRun := 0, jam := none, keyBarred := false } = x.kept := fun _ => rfl
  simp only [State.kept, State.putGate, e, h, Counters.kept_gateClosures]

theorem kept_resolveGate (s : State) : s.resolveGate.kept = s.kept := by
  unfold State.resolveGate
  split
  · exact kept_putGate (Gate.kept_resolve _ _)
  · rfl

theorem kept_resolveClosure (s : State) : s.resolveClosure.kept = s.kept := by
  unfold State.resolveClosure
  rw [kept_resolveGate, kept_actOnGate, kept_resolveGate, kept_handDemand, kept_actOnUnion]

theorem kept_cutWant (s : State) : s.cutWant.kept = s.kept := by
  unfold State.cutWant
  split <;> rfl

theorem kept_moveLead (b s : State) : (State.moveLead b s).kept = s.kept := by
  unfold State.moveLead
  split <;> rfl

theorem kept_formWants (b s : State) : (State.formWants b s).kept = s.kept := by
  have h : ∀ x : State, x.split.kept = x.kept := fun _ => rfl
  unfold State.formWants
  rw [h, kept_moveLead, kept_cutWant]

theorem kept_formLamps (b s : State) : (State.formLamps b s).kept = s.kept := by
  simp only [State.kept, State.formLamps, formSubmerged, Eight.get_ofFn]
  rfl

theorem kept_formDemands (s : State) : s.formDemands.kept = s.kept := rfl

theorem kept_settleDemands (b s : State) : (State.settleDemands b s).kept = s.kept := by
  unfold State.settleDemands
  rw [kept_formDemands, kept_formLamps, kept_formWants, kept_resolveClosure, kept_updateSag, kept_formOrigins]

theorem LevelMonitor.onPumps_kept (m : LevelMonitor) (a b c : Bool) :
    { m.onPumps a b c with settle := none, armed := false, collector := Collector.empty } =
      { m with settle := none, armed := false, collector := Collector.empty } := by
  unfold LevelMonitor.onPumps
  dsimp only
  split <;> split <;> rfl

theorem kept_putPumps {r1 r2 : PumpRec} {s : State} (h1 : r1.kept = s.pumps.p1.kept) (h2 : r2.kept = s.pumps.p2.kept) :
    (s.putPumps r1 r2).kept = s.kept := by
  simp only [State.kept, State.putPumps, LevelMonitor.onPumps_kept, h1, h2, Counters.kept_pump1Starts,
    Counters.kept_pump2Starts]

theorem kept_derivePumps (s : State) : s.derivePumps.kept = s.kept :=
  kept_putPumps (PumpRec.kept_apply _ _) (PumpRec.kept_apply _ _)

theorem kept_applyCeilings (s : State) : s.applyCeilings.kept = s.kept := by
  have h : s.formCeilings.kept = s.kept := rfl
  unfold State.applyCeilings
  rw [kept_derivePumps, h]

theorem kept_takeSagChange (b s : State) : (State.takeSagChange b s).kept = s.kept := by
  unfold State.takeSagChange
  split
  · rfl
  · exact kept_derivePumps s

theorem kept_allotmentPass (s : State) : s.allotmentPass.kept = s.kept := by
  simp [State.kept, State.allotmentPass, State.fillOwnRecord, State.shareOwnRecord, Picture.put]

theorem kept_runPass (b s : State) : (State.runPass b s).kept = s.kept := by
  unfold State.runPass
  split
  · exact kept_allotmentPass s
  · rfl

theorem kept_applyMotion (b s : State) : (State.applyMotion b s).kept = s.kept := by
  unfold State.applyMotion
  split
  · exact kept_putGate (by rw [Gate.kept_settleStall, Gate.kept_applyShare])
  · rfl

theorem kept_setLamps (s : State) : s.setLamps.kept = s.kept := by
  simp only [State.kept, State.setLamps, setOutputs, Eight.get_ofFn]
  rfl

theorem kept_lightLamps (s : State) : s.lightLamps.kept = s.kept := by
  unfold State.lightLamps
  rw [kept_setLamps]
  rfl

theorem kept_settleShares (b s : State) : (State.settleShares b s).kept = s.kept := by
  unfold State.settleShares
  rw [kept_lightLamps, kept_applyMotion, kept_applyCeilings, kept_runPass, kept_takeSagChange]

theorem kept_fillFlight (s : State) : s.fillFlight.kept = s.kept := by
  unfold State.fillFlight
  split
  · rfl
  · split
    · rfl
    · simp only [State.kept, Counters.kept_deferrals]

theorem kept_requestStatus (s : State) : s.requestStatus.kept = s.kept := by
  unfold State.requestStatus
  split
  · rw [kept_fillFlight]
    simp only [State.kept, Counters.kept_queueDrops]
  · rfl

theorem kept_prompt (b : State) (p : Bool) (s : State) : (State.prompt b p s).kept = s.kept := by
  unfold State.prompt
  split
  · exact kept_requestStatus s
  · rfl

theorem kept_enqueueReply (p : List Byte) (s : State) : (s.enqueueReply p).kept = s.kept := by
  unfold State.enqueueReply
  split
  · split
    · rw [kept_fillFlight]
      rfl
    · rfl
  · rfl

theorem kept_answer (d : Addressing) (p : List Byte) (s : State) : (s.answer d p).kept = s.kept := by
  cases d
  · exact kept_enqueueReply p s
  · rfl

theorem kept_settleRunning (b s : State) : (State.settleRunning b s).kept = s.kept := by
  unfold State.settleRunning
  dsimp only
  rw [kept_prompt, kept_settleShares, kept_settleDemands]

theorem kept_fallbackPumps (b s : State) : (State.fallbackPumps b s).kept = s.kept :=
  kept_putPumps (PumpRec.kept_apply _ _) (PumpRec.kept_apply _ _)

theorem kept_fallbackLamps (s : State) : s.fallbackLamps.kept = s.kept := by
  simp only [State.kept, State.fallbackLamps, Eight.get_ofFn]
  rfl

theorem kept_settleFallback (b s : State) : (State.settleFallback b s).kept = s.kept := by
  have e : ∀ x : Gate, { x with
      state := .unknown, dir := none, holdCause := none, demand := none, travel := 0, retries := 0, backoff := none,
      stallRun := 0, jam := none, keyBarred := false } = x.kept := fun _ => rfl
  unfold State.settleFallback
  dsimp only
  rw [kept_prompt, kept_fallbackLamps, kept_fallbackPumps]
  simp only [State.kept, State.fallbackOrigins, e, Gate.kept_deriveFallback]

/-- What follows from an event leaves what `kept` shows. -/
theorem kept_settle (b s : State) : (State.settle b s).kept = s.kept := by
  unfold State.settle
  split
  · rfl
  · exact kept_settleFallback b s
  · exact kept_settleRunning b s

theorem kept_finish {s : State} (h : s.restartPending = false) : s.finish.kept = s.kept := by
  rw [finish_of_not_pending h]
  unfold State.copyRetained
  split <;> rfl

end Sys2Proof.Machine
end

