-- ==== Sys2Proof/Laws/Settled.lean ====
section
/-! SUPPORT. What a settled state satisfies: frames by `stable`, and the facts behind R56, R74, R94, R118 and R137 (the
phase against the union, the motor and the pumps against the shares, the green lamps, the shares against the demands). -/

set_option Elab.async false

namespace Sys2Proof.Machine

open Sys2Proof

/-! ### Frames -/

theorem Fifteen.ofFn_timeless_put (c : Picture) (i : Fin 15) (r : StationRecord) :
    (Fifteen.ofFn fun j => ((c.put i r).records.get j).timeless) =
      (Fifteen.ofFn fun j => (c.records.get j).timeless).set i r.timeless := by
  unfold Fifteen.set
  congr 1
  funext j
  by_cases h : j = i <;> simp [h]

theorem stable_of_kept {s t : State} (h : t.kept = s.kept) : t.stable = s.stable := by
  have e : ∀ u : State, u.stable = u.kept.stable := by
    intro u
    simp only [State.stable, State.kept, State.timeless, Fifteen.ofFn_timeless_put]
    simp only [Picture.put, Fifteen.set_set, Eight.get_ofFn]
    rfl
  rw [e t, e s, h]

/-- Time passing changes nothing of `stable`. -/
theorem stable_elapse (d : Time) (s : State) : (s.elapse d).stable = s.stable :=
  congrArg State.kept (timeless_elapse d s)

/-- What follows from an event changes nothing of `stable`. -/
theorem stable_settle (b s : State) : (State.settle b s).stable = s.stable := stable_of_kept (kept_settle b s)

/-- The end of an event changes nothing of `stable` where no restart is pending. -/
theorem stable_endEvent {b s : State} (h : s.restartPending = false) : (State.endEvent b s).stable = s.stable := by
  have hp : (State.settle b s).restartPending = false := (congrArg State.restartPending (kept_settle b s)).trans h
  exact stable_of_kept ((kept_finish hp).trans (kept_settle b s))

/-! ### The closure phase (R92, R94) -/

@[simp] theorem closure_formWants (b s : State) : (State.formWants b s).closure = s.closure := by
  unfold State.formWants State.moveLead State.cutWant State.split
  split <;> split <;> rfl

@[simp] theorem closure_takeSagChange (b s : State) : (State.takeSagChange b s).closure = s.closure := by
  unfold State.takeSagChange
  split <;> rfl

@[simp] theorem closure_runPass (b s : State) : (State.runPass b s).closure = s.closure := by
  unfold State.runPass
  split <;> rfl

@[simp] theorem closure_applyMotion (b s : State) : (State.applyMotion b s).closure = s.closure := by
  unfold State.applyMotion
  split <;> rfl

@[simp] theorem closure_fillFlight (s : State) : s.fillFlight.closure = s.closure := by
  unfold State.fillFlight
  split
  · rfl
  · split <;> rfl

@[simp] theorem closure_requestStatus (s : State) : s.requestStatus.closure = s.closure := by
  unfold State.requestStatus
  split <;> simp

@[simp] theorem closure_prompt (b : State) (p : Bool) (s : State) : (State.prompt b p s).closure = s.closure := by
  unfold State.prompt
  split <;> simp

theorem closure_settleDemands (b s : State) :
    (State.settleDemands b s).closure = s.formOrigins.updateSag.resolveClosure.closure := by
  show (State.formWants b s.formOrigins.updateSag.resolveClosure).closure = _
  simp

theorem closure_settleShares (b s : State) : (State.settleShares b s).closure = s.closure := by
  show (State.applyMotion b (State.runPass b (State.takeSagChange b s)).applyCeilings).closure = _
  rw [closure_applyMotion]
  show (State.runPass b (State.takeSagChange b s)).closure = _
  simp

/-- The closure controller's items are settled by the first half of an event. -/
theorem closure_settleRunning (b s : State) :
    (State.settleRunning b s).closure = s.formOrigins.updateSag.resolveClosure.closure := by
  unfold State.settleRunning
  dsimp only
  rw [closure_prompt, closure_settleShares, closure_settleDemands]

theorem node_of_kept {s t : State} (h : t.kept = s.kept) : t.node = s.node := by
  have e := congrArg State.node h
  exact e

theorem foldl_congr_mem {α β : Type} {f g : α → β → α} {l : List β} (h : ∀ a, ∀ b ∈ l, f a b = g a b) (a : α) :
    l.foldl f a = l.foldl g a := by
  induction l generalizing a with
  | nil => rfl
  | cons x l ih =>
    simp only [List.foldl_cons]
    rw [h a x (by simp)]
    exact ih (fun a b hb => h a b (by simp [hb])) _

theorem peerOrigins_congr {own : Fin 15} {c d : Picture} (h : ∀ i, i ≠ own → c.records.get i = d.records.get i) :
    c.peerOrigins own = d.peerOrigins own := by
  unfold Picture.peerOrigins
  refine foldl_congr_mem (fun o i hi => ?_) _
  rw [h i (mem_peers.mp hi)]

theorem peer_of_kept {s t : State} (h : t.kept = s.kept) {i : Fin 15} (hi : i ≠ s.node.station) :
    t.picture.records.get i = s.picture.records.get i := by
  have hn := node_of_kept h
  have hp := congrArg (fun u : State => u.picture.records.get i) h
  simpa [State.kept, hi, hn] using hp

theorem peerOrigins_of_kept {s t : State} (h : t.kept = s.kept) :
    t.picture.peerOrigins t.node.station = s.picture.peerOrigins s.node.station := by
  have hn := node_of_kept h
  rw [hn]
  exact peerOrigins_congr fun i hi => peer_of_kept h hi

/-- Two states that agree in `kept` and in the own origins want closure alike (R92). -/
theorem unionOrigins_of_kept {s t : State} (h : t.kept = s.kept) (ho : t.closure.own = s.closure.own) :
    t.unionOrigins = s.unionOrigins := by
  unfold State.unionOrigins
  rw [ho, peerOrigins_of_kept h]

@[simp] theorem Closure.own_actOnUnion (w : Bool) (c : Closure) : (c.actOnUnion w).own = c.own := by
  unfold Closure.actOnUnion
  split <;> (try split) <;> rfl

@[simp] theorem Closure.own_actOnGate (g : Option GateState) (c : Closure) : (c.actOnGate g).own = c.own := by
  unfold Closure.actOnGate
  split <;> (try split) <;> rfl

@[simp] theorem closure_resolveGate (s : State) : s.resolveGate.closure = s.closure := by
  unfold State.resolveGate
  split <;> rfl

theorem own_resolveClosure (s : State) : s.resolveClosure.closure.own = s.closure.own := by
  simp [State.resolveClosure, State.actOnGate, State.handDemand, State.actOnUnion]

/-- The own origins of a settled state (R89 to R91). -/
theorem own_settleRunning (b s : State) :
    (State.settleRunning b s).closure.own =
      ⟨decide (3 ≤ s.level.stage.num), s.profile.gate.present && s.closure.outside, s.closure.own.command⟩ := by
  rw [closure_settleRunning, own_resolveClosure]
  unfold State.updateSag
  split <;> rfl

/-- The union of a settled state (R92). -/
theorem unionOrigins_settleRunning (b s : State) :
    (State.settleRunning b s).unionOrigins = s.formOrigins.unionOrigins := by
  refine unionOrigins_of_kept (kept_settleRunning b s) ?_
  rw [own_settleRunning]
  rfl

/-- A closing phase: neither OPEN nor REOPENING. -/
def Phase.closing (p : Phase) : Prop := p ≠ .opened ∧ p ≠ .reopening

theorem Closure.closing_actOnUnion (c : Closure) : (c.actOnUnion true).phase.closing := by
  unfold Closure.actOnUnion Phase.closing
  split <;> simp_all

theorem Closure.closing_actOnGate {c : Closure} (g : Option GateState) (h : c.phase.closing) :
    (c.actOnGate g).phase.closing := by
  unfold Phase.closing at *
  unfold Closure.actOnGate
  split <;> (try split) <;> simp_all

theorem closing_resolveClosure {s : State} (h : s.wanted = true) : s.resolveClosure.closure.phase.closing := by
  unfold State.resolveClosure
  rw [closure_resolveGate]
  refine Closure.closing_actOnGate _ ?_
  rw [closure_resolveGate]
  show (s.closure.actOnUnion s.wanted).phase.closing
  rw [h]
  exact Closure.closing_actOnUnion _

/-- A settled state that wants closure is closing (R94). -/
theorem closing_settleRunning {b s : State} (h : (State.settleRunning b s).wanted = true) :
    (State.settleRunning b s).closure.phase.closing := by
  rw [closure_settleRunning]
  apply closing_resolveClosure
  have e : s.formOrigins.updateSag.wanted = s.formOrigins.wanted := by
    unfold State.updateSag
    split <;> rfl
  rw [e]
  unfold State.wanted at *
  rw [← unionOrigins_settleRunning b s]
  exact h

/-! ### What the line's operations may change: the line and the counters alone -/

theorem fillFlight_line (s : State) : ∃ l c, s.fillFlight = { s with line := l, counters := c } := by
  unfold State.fillFlight
  split
  · exact ⟨_, _, rfl⟩
  · split <;> exact ⟨_, _, rfl⟩

theorem requestStatus_line (s : State) : ∃ l c, s.requestStatus = { s with line := l, counters := c } := by
  unfold State.requestStatus
  split
  · obtain ⟨l, c, h⟩ := fillFlight_line
      { s with
        line := { s.line with
          waiting := requestIn s.line.waiting
          newer := s.line.newer || s.line.statusBegun
          reportTimer := 0
          replyLeft := s.line.replyLeft || (requestDrops s.line.waiting && newestIsRestart s.line.waiting) }
        counters := s.counters.raiseIf .queueDrops (requestDrops s.line.waiting) }
    exact ⟨l, c, h⟩
  · exact ⟨_, _, rfl⟩

theorem prompt_line (b : State) (p : Bool) (s : State) :
    ∃ l c, State.prompt b p s = { s with line := l, counters := c } := by
  unfold State.prompt
  split
  · exact requestStatus_line s
  · exact ⟨_, _, rfl⟩

theorem enqueueReply_line (p : List Byte) (s : State) :
    ∃ l c, s.enqueueReply p = { s with line := l, counters := c } := by
  unfold State.enqueueReply
  split
  · split
    · obtain ⟨l, c, h⟩ := fillFlight_line { s with line := { s.line with waiting := s.line.waiting ++ [.reply p] } }
      exact ⟨l, c, h⟩
    · exact ⟨_, _, rfl⟩
  · exact ⟨_, _, rfl⟩

theorem answer_line (d : Addressing) (p : List Byte) (s : State) :
    ∃ l c, s.answer d p = { s with line := l, counters := c } := by
  cases d
  · exact enqueueReply_line p s
  · exact ⟨_, _, rfl⟩

theorem leaveFlight_line (s : State) : ∃ l c, s.leaveFlight = { s with line := l, counters := c } := by
  obtain ⟨l, c, h⟩ := fillFlight_line
    { s with
      line := { s.line with
        flight := none, attempts := 0, newer := false, access := .none
        replyLeft := s.line.replyLeft || s.line.flightIsRestart } }
  exact ⟨l, c, h⟩

theorem collide_line (f : Flight) (s : State) : ∃ l c, s.collide f = { s with line := l, counters := c } := by
  unfold State.collide
  dsimp only
  split
  · obtain ⟨l, c, h⟩ := leaveFlight_line (State.count
      { s with
        line := { s.line with attempts := s.line.attempts + 1 }
        counters := s.counters.raise .collisions } .giveUps)
    exact ⟨l, c, h⟩
  · split <;> exact ⟨_, _, rfl⟩

theorem completeAttempt_line (f : Flight) (s : State) :
    ∃ l c, s.completeAttempt f = { s with line := l, counters := c } := by
  unfold State.completeAttempt
  split
  · obtain ⟨l, c, h⟩ := leaveFlight_line
      { s with
        line := { s.line with
          lastShares := frameShares (f.frame.getD [])
          ownSeq := nextSeq (natAt (f.frame.getD []) 4) }
        counters := s.counters.raise .statusSent }
    exact ⟨l, c, h⟩
  · obtain ⟨l, c, h⟩ := leaveFlight_line (s.count .replySent)
    exact ⟨l, c, h⟩

/-! ### What the second half of an event may change -/

theorem runPass_shape (b s : State) :
    ∃ c a, State.runPass b s = { s with picture := c, allot := a } := by
  unfold State.runPass
  split <;> exact ⟨_, _, rfl⟩

theorem takeSagChange_shape (b s : State) :
    ∃ l u c, State.takeSagChange b s = { s with level := l, pumps := u, counters := c } := by
  unfold State.takeSagChange
  split <;> exact ⟨_, _, _, rfl⟩

theorem applyMotion_shape (b s : State) :
    ∃ g c, State.applyMotion b s = { s with gate := g, counters := c } := by
  unfold State.applyMotion
  split <;> exact ⟨_, _, rfl⟩

theorem settleShares_demands (b s : State) : (State.settleShares b s).demands = s.demands := by
  unfold State.settleShares
  obtain ⟨l, u, c, h1⟩ := takeSagChange_shape b s
  obtain ⟨d, a, h2⟩ := runPass_shape b (State.takeSagChange b s)
  obtain ⟨g, e, h3⟩ := applyMotion_shape b (State.runPass b (State.takeSagChange b s)).applyCeilings
  rw [h3, h2, h1]
  rfl

theorem settleShares_allot (b s : State) :
    (State.settleShares b s).allot = (State.runPass b (State.takeSagChange b s)).allot := by
  unfold State.settleShares
  obtain ⟨g, e, h3⟩ := applyMotion_shape b (State.runPass b (State.takeSagChange b s)).applyCeilings
  rw [h3]
  rfl

theorem settleShares_pumps (b s : State) :
    (State.settleShares b s).pumps = (State.runPass b (State.takeSagChange b s)).applyCeilings.pumps := by
  unfold State.settleShares
  obtain ⟨g, e, h3⟩ := applyMotion_shape b (State.runPass b (State.takeSagChange b s)).applyCeilings
  rw [h3]
  rfl

theorem settleShares_gate (b s : State) :
    (State.settleShares b s).gate =
      if s.profile.gate.present then
        Gate.settleStall b.gate (s.gate.applyShare s.profile.gate (State.settleShares b s).allot.shares.m)
      else s.gate := by
  rw [settleShares_allot]
  unfold State.settleShares
  obtain ⟨l, u, c, h1⟩ := takeSagChange_shape b s
  obtain ⟨d, a, h2⟩ := runPass_shape b (State.takeSagChange b s)
  show (State.applyMotion b (State.runPass b (State.takeSagChange b s)).applyCeilings).gate = _
  rw [h2, h1]
  unfold State.applyMotion
  show (if s.profile.gate.present = true then _ else _ : State).gate = _
  split <;> rfl

/-! ### The shares against the demands (R56) -/

theorem serve_share_le {rem own total : Nat} (h : own ≤ total) : (serve rem own total).share ≤ own := by
  unfold serve
  split
  · exact Nat.le_refl _
  · rename_i hr
    refine Nat.div_le_of_le_mul ?_
    exact Nat.mul_le_mul_right own (by omega)

theorem serve_share_rem {rem own total : Nat} (h : own ≤ total) :
    (serve rem own total).share + (serve rem own total).rem ≤ rem := by
  unfold serve
  split
  · dsimp only
    omega
  · rename_i hr
    simp only [Nat.add_zero]
    refine Nat.div_le_of_le_mul ?_
    rw [Nat.mul_comm total rem]
    exact Nat.mul_le_mul_left rem h

theorem sumBy_ge (f : Demands → Nat) (cs : List Claim) (a : Nat) :
    a ≤ cs.foldl (fun a c => a + f c.demands) a := by
  induction cs generalizing a with
  | nil => exact Nat.le_refl _
  | cons c cs ih => exact Nat.le_trans (Nat.le_add_right _ _) (ih _)

theorem own_le_sumBy (f : Demands → Nat) (c : Claim) (cs : List Claim) : f c.demands ≤ sumBy f (c :: cs) := by
  unfold sumBy
  simp only [List.foldl_cons, Nat.zero_add]
  exact sumBy_ge f cs _

theorem own_le_tierSum (c : Claim) (cs : List Claim) : c.demands.p ≤ tierSum c.stage (c :: cs) := by
  unfold tierSum
  simp only [List.filter_cons, decide_true, if_true]
  exact own_le_sumBy _ _ _

/-- The tiers served so far keep the share and the remainder within what PUMPING began with, and the share within the own
demand once, and at 0 before the own tier. -/
theorem serveTier_le (own : Claim) (cs : List Claim) (acc : Served) (k : Stage) :
    (serveTier own (own :: cs) acc k).share + (serveTier own (own :: cs) acc k).rem ≤ acc.share + acc.rem ∧
    (serveTier own (own :: cs) acc k).share ≤ acc.share + (if own.stage = k then own.demands.p else 0) := by
  unfold serveTier
  by_cases h : own.stage = k
  · subst h
    have h1 := serve_share_rem (rem := acc.rem) (own_le_tierSum own cs)
    have h2 := serve_share_le (rem := acc.rem) (own_le_tierSum own cs)
    simp only [if_true]
    omega
  · have h1 := serve_share_rem (rem := acc.rem) (Nat.zero_le (tierSum k (own :: cs)))
    have h2 := serve_share_le (rem := acc.rem) (Nat.zero_le (tierSum k (own :: cs)))
    simp only [if_neg h]
    omega

theorem servePumping_le (rem : Nat) (own : Claim) (cs : List Claim) :
    (servePumping rem own (own :: cs)).share ≤ own.demands.p ∧
    (servePumping rem own (own :: cs)).share + (servePumping rem own (own :: cs)).rem ≤ rem := by
  unfold servePumping tiers
  simp only [List.foldl_cons, List.foldl_nil]
  have h1 := serveTier_le own cs ⟨0, rem⟩ .submerged
  generalize serveTier own (own :: cs) ⟨0, rem⟩ .submerged = a1 at *
  have h2 := serveTier_le own cs a1 .flood
  generalize serveTier own (own :: cs) a1 .flood = a2 at *
  have h3 := serveTier_le own cs a2 .rising
  generalize serveTier own (own :: cs) a2 .rising = a3 at *
  have h4 := serveTier_le own cs a3 .wet
  generalize serveTier own (own :: cs) a3 .wet = a4 at *
  have h5 := serveTier_le own cs a4 .dry
  generalize serveTier own (own :: cs) a4 .dry = a5 at *
  cases hs : own.stage <;> simp only [hs, if_true, reduceCtorEq, if_false, Nat.add_zero] at * <;> omega

/-- The result of a pass (R56): each share within the own demand, and the four together within the usable capacity. -/
theorem serveAll_le (usable : Nat) (own : Claim) (others : List Claim) :
    let r := (serveAll usable own others).shares
    r.t ≤ own.demands.t ∧ r.m ≤ own.demands.m ∧ r.p ≤ own.demands.p ∧ r.l ≤ own.demands.l ∧
    r.t + r.m + r.p + r.l ≤ usable := by
  unfold serveAll
  dsimp only
  have t1 := serve_share_le (rem := usable) (own_le_sumBy Demands.t own others)
  have t2 := serve_share_rem (rem := usable) (own_le_sumBy Demands.t own others)
  generalize serve usable own.demands.t (sumBy Demands.t (own :: others)) = t at *
  have m1 := serve_share_le (rem := t.rem) (own_le_sumBy Demands.m own others)
  have m2 := serve_share_rem (rem := t.rem) (own_le_sumBy Demands.m own others)
  generalize serve t.rem own.demands.m (sumBy Demands.m (own :: others)) = m at *
  have p1 := servePumping_le m.rem own others
  generalize servePumping m.rem own (own :: others) = p at *
  have l1 := serve_share_le (rem := p.rem) (own_le_sumBy Demands.l own others)
  have l2 := serve_share_rem (rem := p.rem) (own_le_sumBy Demands.l own others)
  generalize serve p.rem own.demands.l (sumBy Demands.l (own :: others)) = l at *
  omega

/-- The four shares against demands and capacity, as R56 has it. -/
def SharesFit (shares demands : Demands) (usable : Nat) : Prop :=
  shares.t ≤ demands.t ∧ shares.m ≤ demands.m ∧ shares.p ≤ demands.p ∧ shares.l ≤ demands.l ∧
  shares.t + shares.m + shares.p + shares.l ≤ usable

theorem allotmentPass_fit (s : State) :
    SharesFit s.allotmentPass.allot.shares s.demands s.allotmentPass.allot.usable :=
  serveAll_le s.fillOwnRecord.usableCapacity s.ownClaim s.fillOwnRecord.peerClaims

/-- A pass runs where the node state or a demand has changed (R43). -/
theorem passDue_of_ne {b s : State} (h : b.node.state ≠ s.node.state ∨ b.demands ≠ s.demands) :
    State.passDue b s = true := by
  unfold State.passDue
  rcases h with h | h <;> simp [h]

@[simp] theorem settleDemands_node (b s : State) : (State.settleDemands b s).node = s.node :=
  node_of_kept (kept_settleDemands b s)

theorem resolveGate_shape (s : State) : ∃ g c, s.resolveGate = { s with gate := g, counters := c } := by
  unfold State.resolveGate
  split <;> exact ⟨_, _, rfl⟩

theorem resolveClosure_shape (s : State) :
    ∃ g c k, s.resolveClosure = { s with gate := g, counters := c, closure := k } := by
  unfold State.resolveClosure
  obtain ⟨g, c, h⟩ := resolveGate_shape s.actOnUnion.handDemand.resolveGate.actOnGate
  obtain ⟨g', c', h'⟩ := resolveGate_shape s.actOnUnion.handDemand
  rw [h, h']
  exact ⟨_, _, _, rfl⟩

theorem formWants_shape (b s : State) : ∃ u, State.formWants b s = { s with pumps := u } := by
  unfold State.formWants State.moveLead State.cutWant State.split
  split <;> split <;> exact ⟨_, rfl⟩

theorem settleDemands_shares (b s : State) :
    (State.settleDemands b s).allot.shares = s.allot.shares ∧ (State.settleDemands b s).allot.usable = s.allot.usable := by
  unfold State.settleDemands
  obtain ⟨g, c, k, h⟩ := resolveClosure_shape s.formOrigins.updateSag
  obtain ⟨u, hu⟩ := formWants_shape b s.formOrigins.updateSag.resolveClosure
  rw [hu, h]
  unfold State.updateSag
  split <;> exact ⟨rfl, rfl⟩

theorem settleRunning_shape (b s : State) :
    ∃ l c, State.settleRunning b s = { State.settleShares b (State.settleDemands b s) with line := l, counters := c } := by
  unfold State.settleRunning
  exact prompt_line _ _ _

theorem settleRunning_demands (b s : State) :
    (State.settleRunning b s).demands = (State.settleDemands b s).demands := by
  obtain ⟨l, c, h⟩ := settleRunning_shape b s
  have hd := congrArg State.demands h
  exact hd.trans (settleShares_demands b _)

/-- The shares of a settled state (R56), from those the event began with where no pass was due. -/
theorem sharesFit_settleRunning {b s : State}
    (h : b.node.state = s.node.state →
      s.allot.shares = b.allot.shares ∧ s.allot.usable = b.allot.usable ∧
      SharesFit b.allot.shares b.demands b.allot.usable) :
    SharesFit (State.settleRunning b s).allot.shares (State.settleRunning b s).demands
      (State.settleRunning b s).allot.usable := by
  have ha : (State.settleRunning b s).allot =
      (State.runPass b (State.takeSagChange b (State.settleDemands b s))).allot := by
    obtain ⟨l, c, hp⟩ := settleRunning_shape b s
    exact (congrArg State.allot hp).trans (settleShares_allot b _)
  rw [ha, settleRunning_demands]
  have hs := settleDemands_shares b s
  have hn := settleDemands_node b s
  generalize State.settleDemands b s = d at *
  obtain ⟨l, u, c, h1⟩ := takeSagChange_shape b d
  unfold State.runPass
  split
  · have hd : (State.takeSagChange b d).demands = d.demands := by rw [h1]
    rw [← hd]
    exact allotmentPass_fit _
  · rename_i hp
    have hno : ¬ (b.node.state ≠ (State.takeSagChange b d).node.state ∨ b.demands ≠ (State.takeSagChange b d).demands) :=
      fun hc => hp (passDue_of_ne hc)
    rw [h1] at hno ⊢
    simp only [ne_eq, not_or, Decidable.not_not] at hno
    obtain ⟨h2, h3, h4⟩ := h (by rw [hno.1, hn])
    rw [hs.1, hs.2, h2, h3, ← hno.2]
    exact h4

/-! ### The pumps against the share (R74) -/

theorem drawHundredths_le {pp : PumpProfile} {r : PumpRec} {sag : Bool} {portion : Nat}
    (hc : r.ceiling = ceilingOf pp.ratedDraw portion) :
    (r.apply (r.derive pp sag)).drawHundredths pp ≤ 100 * portion := by
  have hr : pp.ratedDraw * r.ceiling ≤ 100 * portion := by
    rw [hc]
    unfold ceilingOf
    calc pp.ratedDraw * min 100 (portion * 100 / pp.ratedDraw)
        ≤ pp.ratedDraw * (portion * 100 / pp.ratedDraw) := Nat.mul_le_mul_left _ (Nat.min_le_right _ _)
      _ ≤ portion * 100 := Nat.mul_div_le _ _
      _ = 100 * portion := Nat.mul_comm _ _
  have hm : pp.ratedDraw * min r.want r.ceiling ≤ 100 * portion :=
    Nat.le_trans (Nat.mul_le_mul_left _ (Nat.min_le_right _ _)) hr
  unfold PumpRec.drawHundredths PumpRec.apply
  dsimp only
  unfold PumpRec.derive
  repeat' split
  all_goals simp_all

theorem portions_le (s : State) : s.portionOf .one + s.portionOf .two ≤ s.allot.shares.p := by
  unfold State.portionOf
  dsimp only
  cases hl : s.pumps.lead <;>
    cases h1 : s.isEligible .one <;> cases h2 : s.isEligible .two <;> simp <;> omega

theorem applyCeilings_draw (s : State) :
    s.applyCeilings.pumps.p1.drawHundredths s.profile.pump1 + s.applyCeilings.pumps.p2.drawHundredths s.profile.pump2 ≤
      100 * s.allot.shares.p := by
  have h1 : s.applyCeilings.pumps.p1.drawHundredths s.profile.pump1 ≤ 100 * s.portionOf .one :=
    drawHundredths_le (sag := s.allot.sagHeld) (r := s.formCeilings.pumps.p1) rfl
  have h2 : s.applyCeilings.pumps.p2.drawHundredths s.profile.pump2 ≤ 100 * s.portionOf .two :=
    drawHundredths_le (sag := s.allot.sagHeld) (r := s.formCeilings.pumps.p2) rfl
  have h3 := portions_le s
  omega

@[simp] theorem settleRunning_profile (b s : State) : (State.settleRunning b s).profile = s.profile := by
  have h := congrArg State.profile (kept_settleRunning b s)
  exact h

@[simp] theorem settleRunning_node (b s : State) : (State.settleRunning b s).node = s.node :=
  node_of_kept (kept_settleRunning b s)

/-- A settled state draws no more than its PUMPING share (R74). -/
theorem draw_settleRunning (b s : State) :
    (State.settleRunning b s).pumps.p1.drawHundredths (State.settleRunning b s).profile.pump1 +
      (State.settleRunning b s).pumps.p2.drawHundredths (State.settleRunning b s).profile.pump2 ≤
      100 * (State.settleRunning b s).allot.shares.p := by
  rw [settleRunning_profile]
  obtain ⟨l, c, h⟩ := settleRunning_shape b s
  rw [h]
  show (State.settleShares b (State.settleDemands b s)).pumps.p1.drawHundredths _ +
    (State.settleShares b (State.settleDemands b s)).pumps.p2.drawHundredths _ ≤
    100 * (State.settleShares b (State.settleDemands b s)).allot.shares.p
  rw [settleShares_pumps, settleShares_allot]
  have hk := congrArg State.profile (kept_settleDemands b s)
  have hp : (State.settleDemands b s).profile = s.profile := hk
  generalize State.settleDemands b s = d at *
  obtain ⟨l', u, c', h1⟩ := takeSagChange_shape b d
  obtain ⟨d', a, h2⟩ := runPass_shape b (State.takeSagChange b d)
  have hprof : (State.runPass b (State.takeSagChange b d)).profile = s.profile := by rw [h2, h1]; exact hp
  rw [← hprof]
  exact applyCeilings_draw _

/-! ### The motor against the share (R118) -/

theorem Gate.moving_of_underDemand {p : GateProfile} {d : Dir} {g : Gate} :
    (g.underDemand p d).state.moves = true → g.state.moves = true := by
  unfold Gate.underDemand
  split
  · cases d <;> simp [Gate.complete, Gate.stop, Dir.atLimit, GateState.moves]
  · dsimp only
    cases hm : g.state.moves <;> split <;> simp [GateState.moves]

theorem Gate.resolve_keyless {p : GateProfile} {g : Gate} (hk : g.keyDrive = none) :
    g.resolve p =
      if g.formLimitsJam.jam.isSome then g.formLimitsJam.jammed
      else if g.formLimitsJam.commandHold then g.formLimitsJam.underHold
      else
        match g.formLimitsJam.demand with
        | some d => g.formLimitsJam.underDemand p d
        | none => g.formLimitsJam.atRest := by
  have hf : g.formLimitsJam.keyDrive = none := by unfold Gate.formLimitsJam; split <;> exact hk
  unfold Gate.resolve
  dsimp only
  split
  · rename_i h
    rw [hf] at h
    cases h
  · rfl

theorem Gate.underDemand_marks (p : GateProfile) (d : Dir) (g : Gate) :
    (g.underDemand p d).keyDrive = g.keyDrive ∧ (g.underDemand p d).jam = g.jam ∧
    (g.underDemand p d).commandHold = g.commandHold ∧ (g.underDemand p d).demand = g.demand := by
  unfold Gate.underDemand
  split
  · exact ⟨rfl, rfl, rfl, rfl⟩
  · dsimp only
    split <;> exact ⟨rfl, rfl, rfl, rfl⟩

/-- A keyless gate that moves after its resolution moves under its demand (R114). -/
theorem Gate.moves_resolve {p : GateProfile} {g : Gate} (hk : g.keyDrive = none)
    (hm : (g.resolve p).state.moves = true) : (g.resolve p).wantsShare = true := by
  have hf : g.formLimitsJam.keyDrive = none := by unfold Gate.formLimitsJam; split <;> exact hk
  rw [Gate.resolve_keyless hk] at hm ⊢
  generalize g.formLimitsJam = x at *
  split
  · rename_i hj
    rw [if_pos hj] at hm
    simp [Gate.jammed, GateState.moves] at hm
  · rename_i hj
    rw [if_neg hj] at hm
    split
    · rename_i hc
      rw [if_pos hc] at hm
      revert hm
      unfold Gate.underHold
      cases hs : x.state <;> simp [Gate.hold, GateState.moves, hs]
    · rename_i hc
      rw [if_neg hc] at hm
      cases hd : x.demand with
      | none =>
        rw [hd] at hm
        revert hm
        dsimp only
        unfold Gate.atRest
        cases hs : x.state <;> simp [Gate.hold, GateState.moves, hs]
      | some d =>
        rw [hd] at hm
        obtain ⟨e1, e2, e3, e4⟩ := Gate.underDemand_marks p d x
        dsimp only at hm ⊢
        unfold Gate.wantsShare
        rw [e1, e2, e3, e4, hd, hm, hf]
        cases hx : x.jam <;> cases hh : x.commandHold <;> simp_all

theorem Gate.motor_isSome (g : Gate) : g.motor.isSome = g.state.moves := by
  unfold Gate.motor
  cases hs : g.state <;> rfl

theorem Gate.applyShare_covered {p : GateProfile} {n : Nat} {g : Gate} (hw : g.state.moves = true → g.wantsShare = true)
    (hm : (g.applyShare p n).state.moves = true) : p.ratedDraw ≤ n := by
  by_cases hn : p.ratedDraw ≤ n
  · exact hn
  · exfalso
    unfold Gate.applyShare at hm
    by_cases hg : g.state.moves = true
    · rw [if_pos (hw hg), if_neg hn, if_pos hg] at hm
      cases hm
    · rw [if_neg hn, if_neg hg] at hm
      split at hm <;> exact hg hm

theorem Gate.keyDrive_of_kept {g h : Gate} (e : g.kept = h.kept) : g.keyDrive = h.keyDrive := by
  have k := congrArg Gate.keyDrive e
  exact k

theorem Gate.state_settleStall (a g : Gate) : (Gate.settleStall a g).state = g.state := by
  unfold Gate.settleStall
  split <;> rfl

theorem settleDemands_gate (b s : State) :
    (State.settleDemands b s).gate = s.formOrigins.updateSag.resolveClosure.gate := by
  obtain ⟨u, h⟩ := formWants_shape b s.formOrigins.updateSag.resolveClosure
  show (State.formWants b s.formOrigins.updateSag.resolveClosure).gate = _
  rw [h]

/-- A gate of a bay is the resolution of what it was before the last hand-over of its demand (R104, R114). -/
theorem resolveClosure_gate {s : State} (hp : s.profile.gate.present = true) :
    ∃ g : Gate, s.resolveClosure.gate = g.resolve s.profile.gate := by
  unfold State.resolveClosure
  obtain ⟨g, c, h⟩ := resolveGate_shape s.actOnUnion.handDemand
  have hx : s.actOnUnion.handDemand.resolveGate.actOnGate.profile = s.profile := by rw [h]; rfl
  generalize s.actOnUnion.handDemand.resolveGate.actOnGate = x at *
  unfold State.resolveGate
  rw [hx, if_pos hp]
  exact ⟨x.gate, rfl⟩

/-- A settled keyless gate whose motor runs has its share (R118). -/
theorem motor_settleRunning {b s : State} (hp : s.profile.gate.present = true)
    (hk : (State.settleRunning b s).gate.keyDrive = none) (hm : (State.settleRunning b s).gate.motor.isSome = true) :
    s.profile.gate.ratedDraw ≤ (State.settleRunning b s).allot.shares.m := by
  obtain ⟨l, c, h⟩ := settleRunning_shape b s
  have hg : (State.settleRunning b s).gate = (State.settleShares b (State.settleDemands b s)).gate := by rw [h]
  have ha : (State.settleRunning b s).allot = (State.settleShares b (State.settleDemands b s)).allot := by rw [h]
  have hpr : (State.settleDemands b s).profile = s.profile := by
    have e := congrArg State.profile (kept_settleDemands b s)
    exact e
  rw [Gate.motor_isSome, hg, settleShares_gate, hpr, if_pos hp, Gate.state_settleStall] at hm
  rw [hg, settleShares_gate, hpr, if_pos hp] at hk
  rw [ha]
  have hk' : (State.settleDemands b s).gate.keyDrive = none := by
    rw [← hk]
    exact (Gate.keyDrive_of_kept (by rw [Gate.kept_settleStall, Gate.kept_applyShare])).symm
  rw [settleDemands_gate] at hm hk'
  have hps : s.formOrigins.updateSag.profile = s.profile := by
    unfold State.updateSag
    split <;> rfl
  obtain ⟨g, hr⟩ := resolveClosure_gate (s := s.formOrigins.updateSag) (by rw [hps]; exact hp)
  rw [hr, hps] at hm hk'
  have hgk : g.keyDrive = none := by
    rw [← hk']
    exact (Gate.keyDrive_of_kept (Gate.kept_resolve s.profile.gate g)).symm
  exact Gate.applyShare_covered (Gate.moves_resolve hgk) hm

/-! ### The green lamps (R137) -/

theorem aspectOf_green {lp : Eight LampProfile} {ph : Phase} {g : Option GateState} {d : Bool}
    (h : aspectOf lp ph g d = .green) : ph = .opened ∧ (g = none ∨ g = some .opened) := by
  unfold aspectOf at h
  split at h
  · cases h
  · dsimp only at h
    cases ph <;> simp only [reduceCtorEq] at h
    · refine ⟨rfl, ?_⟩
      cases g with
      | none => exact Or.inl rfl
      | some k =>
        cases k <;> cases d <;> simp at h ⊢
    all_goals cases d <;> cases h

theorem outputOf_green {p : Profile} {v : LampView} {lp : LampProfile} {r : LampRec} (hc : lp.cls = .signalGreen)
    (h : r.outputOf p v lp ≠ 0) : v.aspect = .green := by
  unfold LampRec.outputOf at h
  split at h
  · exact absurd rfl h
  · rw [hc] at h
    by_cases ha : v.aspect = .green
    · exact ha
    · exact absurd (by simp [onOff, ha]) h

theorem Gate.applyShare_open {p : GateProfile} {n : Nat} {g : Gate} (h : g.state = .opened) :
    (g.applyShare p n).state = .opened := by
  have hw : g.wantsShare = false := by simp [Gate.wantsShare, h, GateState.moves]
  unfold Gate.applyShare
  rw [hw]
  simpa using h

theorem settleShares_lamps (b s : State) :
    ∃ c, (State.settleShares b s).lamps =
      { s.lamps with
        common := c
        recs := setOutputs s.profile ⟨c, s.lamps.aspect, s.closure.phase, s.lamps.amberCounter, s.lamps.guidanceCounter⟩
          s.lamps.recs } := by
  unfold State.settleShares
  obtain ⟨l, u, c, h1⟩ := takeSagChange_shape b s
  obtain ⟨d, a, h2⟩ := runPass_shape b (State.takeSagChange b s)
  obtain ⟨g, e, h3⟩ := applyMotion_shape b (State.runPass b (State.takeSagChange b s)).applyCeilings
  rw [h3, h2, h1]
  exact ⟨_, rfl⟩

theorem settleDemands_aspect (b s : State) :
    (State.settleDemands b s).lamps.aspect =
      aspectOf s.profile.lamps (State.settleDemands b s).closure.phase (State.settleDemands b s).reportedGate
        (State.settleDemands b s).lamps.degraded := by
  have hp : (State.formWants b s.formOrigins.updateSag.resolveClosure).profile = s.profile := by
    have e := congrArg State.profile (kept_settleDemands b s)
    exact e
  unfold State.settleDemands
  rw [← hp]
  rfl

theorem reportedGate_open {s t : State} (hn : t.node = s.node) (hp : t.profile = s.profile)
    (hg : s.gate.state = .opened → t.gate.state = .opened) (h : s.reportedGate = none ∨ s.reportedGate = some .opened) :
    t.reportedGate = none ∨ t.reportedGate = some .opened := by
  have hr : t.gateRead = s.gateRead := by
    unfold State.gateRead
    rw [hn, hp]
  unfold State.reportedGate at *
  rw [hr]
  cases hs : s.gateRead
  · exact Or.inl rfl
  · rw [hs] at h
    rcases h with h | h
    · cases h
    · exact Or.inr (congrArg some (hg (Option.some.inj h)))

/-- A settled state shows green only in OPEN, with the gate OPEN or none (R137). -/
theorem green_settleRunning {b s : State} {i : Fin 8} (hc : (s.profile.lamps.get i).cls = .signalGreen)
    (ho : ((State.settleRunning b s).lamps.recs.get i).output ≠ 0) :
    (State.settleRunning b s).closure.phase = .opened ∧
      ((State.settleRunning b s).reportedGate = none ∨ (State.settleRunning b s).reportedGate = some .opened) := by
  obtain ⟨l, c, h⟩ := settleRunning_shape b s
  have hpr : (State.settleDemands b s).profile = s.profile := by
    have e := congrArg State.profile (kept_settleDemands b s)
    exact e
  have hcl : (State.settleRunning b s).closure = (State.settleDemands b s).closure := by
    rw [h]
    exact closure_settleShares b _
  obtain ⟨k, hl⟩ := settleShares_lamps b (State.settleDemands b s)
  have hla : (State.settleRunning b s).lamps = (State.settleShares b (State.settleDemands b s)).lamps := by rw [h]
  rw [hla, hl] at ho
  have hgreen : (State.settleDemands b s).lamps.aspect = .green := by
    simp only [setOutputs, Eight.get_ofFn] at ho
    rw [hpr] at ho
    exact outputOf_green hc ho
  rw [settleDemands_aspect] at hgreen
  obtain ⟨h1, h2⟩ := aspectOf_green hgreen
  refine ⟨by rw [hcl]; exact h1, ?_⟩
  have hnode : (State.settleRunning b s).node = (State.settleDemands b s).node := by
    rw [settleRunning_node, settleDemands_node]
  have hgate : (State.settleRunning b s).gate =
      (State.settleShares b (State.settleDemands b s)).gate := by rw [h]
  refine reportedGate_open hnode (by rw [settleRunning_profile, hpr]) ?_ h2
  intro e
  rw [hgate, settleShares_gate]
  split
  · rw [Gate.state_settleStall]
    exact Gate.applyShare_open e
  · exact e

end Sys2Proof.Machine
end

