-- ==== Sys2Proof/Laws/Exec.lean ====
section
/-! SUPPORT. What a command can do: every command is answered by a next state, which is one of three: the state as it was
but for times, pins, line and counters (`quiet`); a state in START; or an event brought to its end by `settle`. -/

set_option Elab.async false

namespace Sys2Proof.Machine

open Sys2Proof

/-- The blocks without times, pins, line, counters, retention and the other items no property of the blocks reads. -/
def State.quiet (s : State) : State :=
  { s.timeless with
    pins := Pins.reset
    picture := { s.timeless.picture with expired := false }
    line := Line.atStart
    spi := ⟨[], []⟩
    restartPending := false
    counters := Counters.zero
    retention := ⟨Retained.blank, false⟩
    freeIndex := 0
    pending := [] }

theorem quiet_of_timeless {s t : State} (h : t.timeless = s.timeless) : t.quiet = s.quiet := by
  unfold State.quiet
  rw [h]

@[simp] theorem quiet_elapse (d : Time) (s : State) : (s.elapse d).quiet = s.quiet :=
  quiet_of_timeless (timeless_elapse d s)

theorem node_of_quiet {s t : State} (h : t.quiet = s.quiet) : t.node.state = s.node.state := by
  have e := congrArg (fun u : State => u.node.state) h
  exact e

/-- What a pass gave, and the profile and the station it was made with, are the same in two states. -/
structure SamePass (b u : State) : Prop where
  shares : u.allot.shares = b.allot.shares
  usable : u.allot.usable = b.allot.usable
  overrun : u.allot.overrun = b.allot.overrun
  profile : u.profile = b.profile
  station : u.node.station = b.node.station

theorem SamePass.trans {a b c : State} (h : SamePass a b) (k : SamePass b c) : SamePass a c :=
  ⟨k.shares.trans h.shares, k.usable.trans h.usable, k.overrun.trans h.overrun, k.profile.trans h.profile,
   k.station.trans h.station⟩

/-- How a step may leave the blocks. -/
def StepShape (s t : State) : Prop :=
  t.quiet = s.quiet ∨ t.node.state = .start ∨
  ∃ b u, b.quiet = s.quiet ∧ t.quiet = (State.settle b u).quiet ∧
    (b.node.state = u.node.state → SamePass b u)

theorem StepShape.refl (s : State) : StepShape s s := Or.inl rfl

theorem StepShape.of_quiet {s t : State} (h : t.quiet = s.quiet) : StepShape s t := Or.inl h

theorem StepShape.start {s t : State} (h : t.node.state = .start) : StepShape s t := Or.inr (Or.inl h)

theorem quiet_copyRetained (s : State) : s.copyRetained.quiet = s.quiet := by
  unfold State.copyRetained
  split <;> rfl

/-- The end of an event: START, or nothing of `quiet` changed. -/
theorem finish_cases (s : State) : s.finish.node.state = .start ∨ s.finish.quiet = s.quiet := by
  unfold State.finish
  split
  · exact Or.inl rfl
  · exact Or.inr (quiet_copyRetained _)

theorem StepShape.finish {s t : State} (h : StepShape s t) : StepShape s t.finish := by
  rcases finish_cases t with hf | hf
  · exact StepShape.start hf
  · rcases h with h | h | ⟨b, u, hb, hu, hs⟩
    · exact Or.inl (hf.trans h)
    · exact StepShape.start ((node_of_quiet hf).trans h)
    · exact Or.inr (Or.inr ⟨b, u, hb, hf.trans hu, hs⟩)

theorem StepShape.settle {s b u : State} (hb : b.quiet = s.quiet)
    (hs : b.node.state = u.node.state → SamePass b u) :
    StepShape s (State.settle b u) :=
  Or.inr (Or.inr ⟨b, u, hb, rfl, hs⟩)

theorem StepShape.endEvent {s b u : State} (hb : b.quiet = s.quiet)
    (hs : b.node.state = u.node.state → SamePass b u) :
    StepShape s (State.endEvent b u) :=
  (StepShape.settle hb hs).finish

/-- An event after an interval that changes no share. -/
theorem StepShape.endEvent_elapse {s s0 u : State} {d : Time} (h0 : s0.quiet = s.quiet)
    (hs : SamePass (s0.elapse d) u) :
    StepShape s (State.endEvent (s0.elapse d) u) :=
  StepShape.endEvent ((quiet_elapse d s0).trans h0) fun _ => hs

theorem StepShape.line {s t : State} {l : Line} {c : Counters} (h : StepShape s t) :
    StepShape s { t with line := l, counters := c } := h

theorem StepShape.answer {s t : State} (d : Addressing) (p : List Byte) (h : StepShape s t) :
    StepShape s (t.answer d p) := by
  obtain ⟨l, c, e⟩ := answer_line d p t
  rw [e]
  exact h.line

/-! ### The starts -/

theorem atRest_start (s : State) : s.atRest.node.state = .start := rfl

theorem startIfReady_start (s : State) : s.startIfReady.node.state = .start := by
  unfold State.startIfReady
  split <;> rfl

theorem beginStart_start (r : Bool) (s : State) : (s.beginStart r).node.state = .start := rfl

theorem StepShape.endOfStart (r : StartReads) (s : State) : StepShape s (s.endOfStart r) := by
  unfold State.endOfStart
  split
  · rename_i h
    have hn : s.node.state = .start := by
      unfold State.startUnderWay at h
      simp only [Bool.and_eq_true, decide_eq_true_eq] at h
      exact h.1.1
    dsimp only
    split
    · exact StepShape.endEvent rfl fun e => by rw [hn] at e; cases e
    · exact StepShape.endEvent rfl fun e => by rw [hn] at e; cases e
  · exact StepShape.refl s

/-! ### The command handler -/

theorem act_shares (c : MaintCommand) (s : State) :
    SamePass s (s.act c) := by
  cases c <;> unfold State.act <;> dsimp only
  case pumpManual n d => split <;> exact ⟨rfl, rfl, rfl, rfl, rfl⟩
  case pumpAuto n => split <;> exact ⟨rfl, rfl, rfl, rfl, rfl⟩
  case lampManual n d => split <;> exact ⟨rfl, rfl, rfl, rfl, rfl⟩
  case lampAuto n => split <;> exact ⟨rfl, rfl, rfl, rfl, rfl⟩
  all_goals exact ⟨rfl, rfl, rfl, rfl, rfl⟩

theorem StepShape.carryOut {s b u : State} (d : Addressing) (c : MaintCommand) (hb : b.quiet = s.quiet)
    (hs : SamePass b u) :
    StepShape s (State.carryOut d c b u) :=
  (StepShape.settle hb fun _ => hs.trans (act_shares c u)).answer d _

theorem StepShape.takeRestart {s u : State} (d : Addressing) (h : StepShape s u) : StepShape s (u.takeRestart d) := by
  unfold State.takeRestart
  dsimp only
  split
  · exact h
  · obtain ⟨l, c, e⟩ := enqueueReply_line (State.replyTo { u with restartPending := true } .restart)
      { u with restartPending := true }
    rw [e]
    exact h

theorem StepShape.accept {s b u : State} (d : Addressing) (c : MaintCommand) (hb : b.quiet = s.quiet)
    (hu : u.quiet = s.quiet) (hs : SamePass b u) :
    StepShape s (State.accept d c b u) := by
  cases c <;> unfold State.accept <;> dsimp only
  case restart => exact StepShape.takeRestart d (StepShape.of_quiet hu)
  case dump => exact StepShape.answer d _ (StepShape.of_quiet hu)
  case query p => exact StepShape.answer d _ (StepShape.of_quiet hu)
  case dumpAndZero =>
    have hz : State.quiet { u with counters := Counters.zero } = s.quiet := hu
    exact StepShape.answer d _ (StepShape.of_quiet hz)
  all_goals exact StepShape.carryOut d _ hb hs

theorem StepShape.takeCommand {s b u : State} (d : Addressing) (f : PayloadForm) (hb : b.quiet = s.quiet)
    (hu : u.quiet = s.quiet) (hs : SamePass b u) :
    StepShape s (State.takeCommand d f b u) := by
  unfold State.takeCommand
  split
  · exact (StepShape.of_quiet hu).finish
  · exact ((StepShape.of_quiet hu).answer d _).finish
  · exact (StepShape.accept d _ hb hu hs).finish

theorem StepShape.maintain (d : Addressing) (c : MaintCommand) (s : State) : StepShape s (s.maintain d c) :=
  StepShape.takeCommand d _ rfl rfl ⟨rfl, rfl, rfl, rfl, rfl⟩

/-! ### Reception -/

theorem takeStatus_shares (a : Byte) (n : Nat) (p : List Byte) (s : State) :
    SamePass s (s.takeStatus a n p) := by
  unfold State.takeStatus
  split
  · split
    · split
      · unfold State.clashReport
        split <;> exact ⟨rfl, rfl, rfl, rfl, rfl⟩
      · unfold State.peerReport
        split <;> exact ⟨rfl, rfl, rfl, rfl, rfl⟩
    · exact ⟨rfl, rfl, rfl, rfl, rfl⟩
  · exact ⟨rfl, rfl, rfl, rfl, rfl⟩

theorem quiet_hearFrame (s : State) : s.hearFrame.quiet = s.quiet := by
  unfold State.hearFrame
  split <;> rfl

theorem hearFrame_shares (s : State) :
    SamePass s s.hearFrame := by
  unfold State.hearFrame
  split <;> exact ⟨rfl, rfl, rfl, rfl, rfl⟩

theorem StepShape.dispatch {s b u : State} (k a d q : Byte) (p : List Byte) (hb : b.quiet = s.quiet)
    (hu : u.quiet = s.quiet) (hs : SamePass b u) :
    StepShape s (State.dispatch b k a d q p u) := by
  unfold State.dispatch
  split
  · exact StepShape.endEvent hb fun _ => hs.trans (takeStatus_shares a q.toNat p u)
  · split
    · split
      · exact StepShape.takeCommand _ _ hb hu hs
      · exact (StepShape.of_quiet hu).finish
    · exact (StepShape.of_quiet hu).finish

theorem StepShape.closeFrame {s u : State} (f : RxFrame) (hu : u.quiet = s.quiet) : StepShape s (u.closeFrame f) := by
  have hc : ∀ n, State.quiet (State.count { u with line := { u.line with rx := none, echo := false } } n) = s.quiet :=
    fun _ => hu
  unfold State.closeFrame
  dsimp only
  split
  · exact StepShape.finish (t := { u with line := { u.line with rx := none, echo := false } }) (StepShape.of_quiet hu)
  · split
    · exact StepShape.finish (StepShape.of_quiet (hc _))
    · exact StepShape.finish (StepShape.of_quiet (hc _))
    · refine StepShape.dispatch _ _ _ _ _ hu ((quiet_hearFrame _).trans (hc _)) ?_
      refine SamePass.trans ?_ (hearFrame_shares _)
      exact ⟨rfl, rfl, rfl, rfl, rfl⟩

/-! ### The events -/

theorem takeSample_shares (r : SampleReads) (s : State) :
    SamePass s (s.takeSample r) := by
  unfold State.takeSample
  split <;> exact ⟨rfl, rfl, rfl, rfl, rfl⟩

theorem takeTick_shares (r : LampReads) (s : State) :
    SamePass s (s.takeTick r) := by
  unfold State.takeTick
  split <;> exact ⟨rfl, rfl, rfl, rfl, rfl⟩

theorem StepShape.sampleEvent (r : SampleReads) (s : State) : StepShape s (s.sampleEvent r) := by
  unfold State.sampleEvent
  split
  · exact StepShape.refl s
  · exact StepShape.endEvent_elapse rfl (takeSample_shares r _)

theorem StepShape.sampleWhere (b : Bool) (r : SampleReads) (s : State) : StepShape s (s.sampleWhere b r) := by
  unfold State.sampleWhere
  split
  · exact StepShape.sampleEvent r s
  · exact StepShape.refl s

theorem StepShape.tickEvent (r : LampReads) (s : State) : StepShape s (s.tickEvent r) := by
  unfold State.tickEvent
  split
  · exact StepShape.refl s
  · exact StepShape.endEvent_elapse rfl (takeTick_shares r _)

theorem StepShape.tickWhere (b : Bool) (r : LampReads) (s : State) : StepShape s (s.tickWhere b r) := by
  unfold State.tickWhere
  split
  · exact StepShape.tickEvent r s
  · exact StepShape.refl s

theorem StepShape.stepLoop_shares (s : State) :
    SamePass s s.stepLoop := by
  unfold State.stepLoop
  split
  · dsimp only
    split <;> exact ⟨rfl, rfl, rfl, rfl, rfl⟩
  · exact ⟨rfl, rfl, rfl, rfl, rfl⟩

theorem StepShape.otherChar (w : Time) (v : Byte) (k : Bool) (s : State) : StepShape s (s.otherChar w v k) := by
  have hh : ∀ t : State, StepShape s t → StepShape s (t.hearChar v k) := by
    intro t h
    unfold State.hearChar
    split
    · exact h
    · exact h
  unfold State.otherChar
  split
  · exact StepShape.of_quiet (quiet_elapse w s)
  · apply hh
    unfold State.closeOverdue
    split
    · split
      · exact StepShape.of_quiet (quiet_elapse w s)
      · exact StepShape.closeFrame _ (quiet_elapse w s)
    · exact StepShape.of_quiet (quiet_elapse w s)

theorem StepShape.collision (v : Byte) (k : Bool) (s : State) : StepShape s (s.collision v k) := by
  unfold State.collision
  split
  · split
    · rename_i f _ _
      obtain ⟨l, c, e⟩ := collide_line f (s.elapse (charTime - s.line.sinceOwn))
      rw [e]
      exact ((StepShape.of_quiet (quiet_elapse _ s)).line).finish
    · exact StepShape.refl s
  · exact StepShape.refl s

theorem quiet_toFrameEnd (f : Flight) (s : State) : (s.toFrameEnd f).quiet = s.quiet := by
  unfold State.toFrameEnd
  dsimp only
  split
  · simp
  · exact (quiet_elapse _ _).trans (quiet_elapse _ _)

theorem StepShape.attemptComplete (s : State) : StepShape s s.attemptComplete := by
  unfold State.attemptComplete
  split
  · split
    · rename_i f _ _
      obtain ⟨l, c, e⟩ := completeAttempt_line f (s.toFrameEnd f)
      rw [e]
      exact (StepShape.line (StepShape.of_quiet (quiet_toFrameEnd f s))).finish
    · exact StepShape.refl s
  · exact StepShape.refl s

theorem StepShape.reportExpiry (s : State) : StepShape s s.reportExpiry := by
  unfold State.reportExpiry
  split
  · obtain ⟨l, c, e⟩ := requestStatus_line (s.elapse (ms s.ownPeriod - s.line.reportTimer))
    rw [e]
    exact (StepShape.line (StepShape.of_quiet (quiet_elapse _ s))).finish
  · exact StepShape.refl s

theorem StepShape.backupLoss (s : State) : StepShape s s.backupLoss := by
  unfold State.backupLoss
  dsimp only
  split <;> exact StepShape.of_quiet rfl

/-- Every command is answered by a next state. -/
theorem exec_next (c : Instr) (s : State) : ∃ t, exec c s = .next t := by
  cases c <;> exact ⟨_, rfl⟩

/-- Every command leaves the state as it was but for what `quiet` hides, or in START, or settled. -/
theorem exec_shape {c : Instr} {s t : State} (h : exec c s = .next t) : StepShape s t := by
  cases c <;> (injection h with h; subst h)
  case powerOn p => exact StepShape.start (startIfReady_start _)
  case resetPinAssert => exact StepShape.start rfl
  case resetPinRelease p =>
    unfold State.resetRelease
    split
    · exact StepShape.start (startIfReady_start _)
    · exact StepShape.refl s
  case brownOut => exact StepShape.start rfl
  case brownOutRecovery p =>
    unfold State.brownOutRecovery
    split
    · exact StepShape.refl s
    · exact StepShape.start (startIfReady_start _)
  case endOfStart r => exact StepShape.endOfStart r s
  case sample r => exact StepShape.sampleEvent r s
  case sensorFaultSet r => exact StepShape.sampleWhere _ r s
  case sensorFaultClear r => exact StepShape.sampleWhere _ r s
  case floatChange r => exact StepShape.sampleWhere _ r s
  case calibrationComplete r => exact StepShape.sampleWhere _ r s
  case frameClose =>
    unfold State.frameClose
    split
    · split
      · exact StepShape.refl s
      · exact StepShape.closeFrame _ (quiet_elapse _ s)
    · exact StepShape.refl s
  case recordStale i =>
    unfold State.recordStale
    split
    · exact StepShape.endEvent_elapse rfl ⟨rfl, rfl, rfl, rfl, rfl⟩
    · exact StepShape.refl s
  case recordGone i =>
    unfold State.recordGone
    split
    · exact StepShape.endEvent_elapse rfl ⟨rfl, rfl, rfl, rfl, rfl⟩
    · exact StepShape.refl s
  case lineSilenceExpiry =>
    unfold State.lineSilence
    split
    · refine StepShape.endEvent_elapse rfl ?_
      unfold State.silenceReport
      split <;> exact ⟨rfl, rfl, rfl, rfl, rfl⟩
    · exact StepShape.refl s
  case supplySourceChange p =>
    unfold State.supplyChange
    split
    · exact StepShape.endEvent_elapse rfl ⟨rfl, rfl, rfl, rfl, rfl⟩
    · exact StepShape.refl s
  case ownSagSet n =>
    unfold State.sagSet
    split
    · exact StepShape.endEvent_elapse rfl ⟨rfl, rfl, rfl, rfl, rfl⟩
    · exact StepShape.refl s
  case ownSagClear n =>
    unfold State.sagClear
    split
    · exact StepShape.endEvent_elapse rfl ⟨rfl, rfl, rfl, rfl, rfl⟩
    · exact StepShape.refl s
  case sagHoldEnd =>
    unfold State.sagHoldEnd
    split
    · split
      · exact StepShape.refl s
      · exact StepShape.endEvent_elapse rfl ⟨rfl, rfl, rfl, rfl, rfl⟩
    · exact StepShape.refl s
  case loopStep =>
    unfold State.loopEvent
    split
    · refine StepShape.endEvent_elapse rfl ?_
      refine SamePass.trans ?_ (StepShape.stepLoop_shares _)
      exact ⟨rfl, rfl, rfl, rfl, rfl⟩
    · exact StepShape.refl s
  case switchChange n p =>
    unfold State.switchEvent
    dsimp only
    split
    · exact StepShape.endEvent_elapse rfl ⟨rfl, rfl, rfl, rfl, rfl⟩
    · exact StepShape.refl s
  case restTimerExpiry n =>
    unfold State.restExpiry
    split
    · split
      · exact StepShape.refl s
      · exact StepShape.endEvent_elapse rfl ⟨rfl, rfl, rfl, rfl, rfl⟩
    · exact StepShape.refl s
  case overcurrentTrip n k =>
    unfold State.overcurrent
    split
    · exact StepShape.endEvent_elapse rfl ⟨rfl, rfl, rfl, rfl, rfl⟩
    · exact StepShape.refl s
  case dryrunTrip n k =>
    unfold State.dryrun
    split
    · exact StepShape.endEvent_elapse rfl ⟨rfl, rfl, rfl, rfl, rfl⟩
    · exact StepShape.refl s
  case retryExpiry n =>
    unfold State.retryExpiry
    split
    · split
      · exact StepShape.refl s
      · exact StepShape.endEvent_elapse rfl ⟨rfl, rfl, rfl, rfl, rfl⟩
    · exact StepShape.refl s
  case dryStageClear =>
    unfold State.dryStageClear
    split
    · split
      · exact StepShape.endEvent_elapse rfl ⟨rfl, rfl, rfl, rfl, rfl⟩
      · exact StepShape.refl s
      · exact StepShape.refl s
    · exact StepShape.refl s
  case runMinute n =>
    unfold State.runMinute
    split
    · exact StepShape.endEvent_elapse rfl ⟨rfl, rfl, rfl, rfl, rfl⟩
    · exact StepShape.refl s
  case outsideFilterChange a =>
    unfold State.outsideChange
    split
    · exact StepShape.endEvent_elapse rfl ⟨rfl, rfl, rfl, rfl, rfl⟩
    · exact StepShape.refl s
  case warnTimerExpiry =>
    unfold State.warnExpiry
    split
    · exact StepShape.endEvent_elapse rfl ⟨rfl, rfl, rfl, rfl, rfl⟩
    · exact StepShape.refl s
  case clearanceTimerExpiry =>
    unfold State.clearanceExpiry
    split
    · exact StepShape.endEvent_elapse rfl ⟨rfl, rfl, rfl, rfl, rfl⟩
    · exact StepShape.refl s
  case presenceClear =>
    unfold State.presenceEvent
    split
    · exact StepShape.endEvent_elapse rfl ⟨rfl, rfl, rfl, rfl, rfl⟩
    · exact StepShape.refl s
  case maxClearExpiry =>
    unfold State.maxClear
    split
    · exact StepShape.endEvent_elapse rfl ⟨rfl, rfl, rfl, rfl, rfl⟩
    · exact StepShape.refl s
  case reopenHoldExpiry =>
    unfold State.reopenExpiry
    split
    · split
      · exact StepShape.refl s
      · exact StepShape.endEvent_elapse rfl ⟨rfl, rfl, rfl, rfl, rfl⟩
    · exact StepShape.refl s
  case limitChange w a =>
    unfold State.limitEvent
    split
    · dsimp only
      split
      · exact StepShape.endEvent_elapse rfl ⟨rfl, rfl, rfl, rfl, rfl⟩
      · exact StepShape.endEvent_elapse rfl ⟨rfl, rfl, rfl, rfl, rfl⟩
    · exact StepShape.refl s
  case keyTakeover d =>
    unfold State.keyTakeover State.atKeyRead
    split
    · exact StepShape.endEvent_elapse rfl ⟨rfl, rfl, rfl, rfl, rfl⟩
    · exact StepShape.refl s
  case keyRelease =>
    unfold State.keyRelease State.atKeyRead
    split
    · exact StepShape.endEvent_elapse rfl ⟨rfl, rfl, rfl, rfl, rfl⟩
    · exact StepShape.refl s
  case gateStall k =>
    unfold State.gateStall
    split
    · exact StepShape.endEvent_elapse rfl ⟨rfl, rfl, rfl, rfl, rfl⟩
    · exact StepShape.refl s
  case backoffEnd =>
    unfold State.backoffEnd
    split
    · split
      · exact StepShape.refl s
      · exact StepShape.endEvent_elapse rfl ⟨rfl, rfl, rfl, rfl, rfl⟩
    · exact StepShape.refl s
  case travelMaximum =>
    unfold State.travelMaximum
    split
    · exact StepShape.endEvent_elapse rfl ⟨rfl, rfl, rfl, rfl, rfl⟩
    · exact StepShape.refl s
  case lampTick r => exact StepShape.tickEvent r s
  case lampFailed r => exact StepShape.tickWhere _ r s
  case lampShorted r => exact StepShape.tickWhere _ r s
  case lineCharacter k =>
    cases k with
    | own =>
      show StepShape s s.ownChar
      unfold State.ownChar
      split
      · split
        · exact StepShape.of_quiet (quiet_elapse _ s)
        · exact StepShape.refl s
      · exact StepShape.refl s
    | other w v => exact StepShape.otherChar w _ _ s
  case attemptStart =>
    unfold State.attemptStart
    split
    · split
      · exact StepShape.of_quiet (quiet_elapse _ s)
      · exact StepShape.refl s
    · exact StepShape.refl s
  case retryStart =>
    unfold State.retryStart
    split
    · split
      · exact StepShape.of_quiet (quiet_elapse _ s)
      · exact StepShape.refl s
    · exact StepShape.refl s
  case collision v k => exact StepShape.collision v k s
  case attemptComplete => exact StepShape.attemptComplete s
  case reportTimerExpiry => exact StepShape.reportExpiry s
  case listenTimerExpiry =>
    unfold State.listenExpiry
    split
    · exact StepShape.endEvent_elapse rfl ⟨rfl, rfl, rfl, rfl, rfl⟩
    · exact StepShape.refl s
  case backupSupplyLoss => exact StepShape.backupLoss s
  all_goals exact StepShape.maintain _ _ s

/-- Every step leaves the state as it was but for what `quiet` hides, or in START, or settled. -/
theorem step_shape {s t : State} (h : step s = .next t) : StepShape s t := by
  unfold step at h
  split at h
  · injection h with h
    subst h
    exact StepShape.of_quiet (quiet_elapse _ s)
  · have e := exec_shape h
    exact e

end Sys2Proof.Machine
end

