-- ==== Sys2Proof/Laws/Counters.lean ====
section
/-! SUPPORT. What a command can do to the counter bank and the retention domain (R178, R188): the counters only rise, each
by single increments, but for a start and DUMP AND ZERO; and an event outside START leaves the domain with what its owners
hold. -/

set_option Elab.async false

namespace Sys2Proof.Machine

open Sys2Proof

/-- Counters reached from others by increments alone. -/
inductive Counters.Grows (c : Counters) : Counters → Prop where
  | same : Counters.Grows c c
  | raise {d : Counters} (h : Counters.Grows c d) (n : CounterName) : Counters.Grows c (d.raise n)

namespace Counters.Grows

theorem trans {a b c : Counters} (h : Counters.Grows a b) (k : Counters.Grows b c) : Counters.Grows a c := by
  induction k with
  | same => exact h
  | raise _ n ih => exact ih.raise n

theorem raiseIf {c d : Counters} (h : Counters.Grows c d) (n : CounterName) (b : Bool) :
    Counters.Grows c (d.raiseIf n b) := by
  cases b
  · exact h
  · exact h.raise n

theorem raiseTimes {c d : Counters} (h : Counters.Grows c d) (n : CounterName) (k : Nat) :
    Counters.Grows c (d.raiseTimes n k) := by
  induction k generalizing d with
  | zero => exact h
  | succ k ih => exact ih (h.raise n)

theorem bounded {c d : Counters} (h : Counters.Grows c d) (hc : c.bounded) : d.bounded := by
  induction h with
  | same => exact hc
  | raise _ n ih => exact Counters.bounded_raise ih n

end Counters.Grows

variable {c : Counters}

theorem grown_fillFlight {s : State} (h : c.Grows s.counters) : c.Grows s.fillFlight.counters := by
  unfold State.fillFlight
  split
  · exact h
  · split
    · exact h
    · exact h.raiseIf _ _

theorem grown_requestStatus {s : State} (h : c.Grows s.counters) : c.Grows s.requestStatus.counters := by
  unfold State.requestStatus
  split
  · exact grown_fillFlight (h.raiseIf .queueDrops _)
  · exact h

theorem grown_prompt {s : State} (h : c.Grows s.counters) (b : State) (p : Bool) :
    c.Grows (State.prompt b p s).counters := by
  unfold State.prompt
  split
  · exact grown_requestStatus h
  · exact h

theorem grown_enqueueReply {s : State} (h : c.Grows s.counters) (p : List Byte) :
    c.Grows (s.enqueueReply p).counters := by
  unfold State.enqueueReply
  split
  · split
    · exact grown_fillFlight h
    · exact h.raise .queueDrops
  · exact h

theorem grown_answer {s : State} (h : c.Grows s.counters) (d : Addressing) (p : List Byte) :
    c.Grows (s.answer d p).counters := by
  cases d
  · exact grown_enqueueReply h p
  · exact h

theorem grown_leaveFlight {s : State} (h : c.Grows s.counters) : c.Grows s.leaveFlight.counters :=
  grown_fillFlight h

theorem grown_collide {s : State} (h : c.Grows s.counters) (f : Flight) : c.Grows (s.collide f).counters := by
  have hc := h.raise .collisions
  unfold State.collide
  dsimp only
  split
  · exact grown_leaveFlight (hc.raise .giveUps)
  · split
    · exact hc
    · exact hc

theorem grown_completeAttempt {s : State} (h : c.Grows s.counters) (f : Flight) :
    c.Grows (s.completeAttempt f).counters := by
  unfold State.completeAttempt
  split
  · exact grown_leaveFlight (h.raise .statusSent)
  · exact grown_leaveFlight (h.raise .replySent)

theorem grown_putGate {s : State} (h : c.Grows s.counters) (g : Gate) : c.Grows (s.putGate g).counters :=
  h.raiseIf _ _

theorem grown_resolveGate {s : State} (h : c.Grows s.counters) : c.Grows s.resolveGate.counters := by
  unfold State.resolveGate
  split
  · exact grown_putGate h _
  · exact h

theorem grown_actOnGate {s : State} (h : c.Grows s.counters) : c.Grows s.actOnGate.counters := h

theorem grown_resolveClosure {s : State} (h : c.Grows s.counters) : c.Grows s.resolveClosure.counters :=
  grown_resolveGate (grown_actOnGate (grown_resolveGate (s := s.actOnUnion.handDemand) h))

theorem grown_putPumps {s : State} (h : c.Grows s.counters) (a b : PumpRec) : c.Grows (s.putPumps a b).counters :=
  (h.raiseIf _ _).raiseIf _ _

theorem grown_takeSagChange {s : State} (h : c.Grows s.counters) (b : State) :
    c.Grows (State.takeSagChange b s).counters := by
  unfold State.takeSagChange
  split
  · exact h
  · exact grown_putPumps h _ _

theorem grown_runPass {s : State} (h : c.Grows s.counters) (b : State) : c.Grows (State.runPass b s).counters := by
  obtain ⟨d, a, e⟩ := runPass_shape b s
  rw [e]
  exact h

theorem grown_applyCeilings {s : State} (h : c.Grows s.counters) : c.Grows s.applyCeilings.counters :=
  grown_putPumps (s := s.formCeilings) h _ _

theorem grown_applyMotion {s : State} (h : c.Grows s.counters) (b : State) :
    c.Grows (State.applyMotion b s).counters := by
  unfold State.applyMotion
  split
  · exact grown_putGate h _
  · exact h

theorem grown_updateSag {s : State} (h : c.Grows s.counters) : c.Grows s.formOrigins.updateSag.counters := by
  unfold State.updateSag
  split <;> exact h

theorem grown_settleDemands {s : State} (h : c.Grows s.counters) (b : State) :
    c.Grows (State.settleDemands b s).counters := by
  obtain ⟨u, e⟩ := formWants_shape b s.formOrigins.updateSag.resolveClosure
  show c.Grows (State.formWants b s.formOrigins.updateSag.resolveClosure).counters
  rw [e]
  exact grown_resolveClosure (grown_updateSag h)

theorem grown_settleShares {s : State} (h : c.Grows s.counters) (b : State) :
    c.Grows (State.settleShares b s).counters :=
  grown_applyMotion (grown_applyCeilings (grown_runPass (grown_takeSagChange h b) b)) b

/-- What follows from an event only raises counters. -/
theorem grown_settle {s : State} (h : c.Grows s.counters) (b : State) : c.Grows (State.settle b s).counters := by
  unfold State.settle
  split
  · exact h
  · unfold State.settleFallback
    dsimp only
    refine grown_prompt ?_ _ _
    exact grown_putPumps (s := { s.fallbackOrigins with
      gate := s.fallbackOrigins.gate.deriveFallback, demands := fallbackDemands }) h _ _
  · unfold State.settleRunning
    dsimp only
    exact grown_prompt (grown_settleShares (grown_settleDemands h b) b) _ _

/-! ### The transmit queue (R154 to R156) -/

/-- The bounds of R154 on a list of waiting entries. -/
def QueueOk (w : List Entry) : Prop := w.length ≤ 4 ∧ w.count .status ≤ 1

theorem QueueOk.nil : QueueOk [] := ⟨Nat.zero_le _, Nat.zero_le _⟩

theorem QueueOk.tail {e : Entry} {w : List Entry} (h : QueueOk (e :: w)) : QueueOk w := by
  unfold QueueOk at *
  have hl := h.1
  have hc := h.2
  simp only [List.length_cons, List.count_cons] at hl hc
  exact ⟨by omega, by omega⟩

theorem QueueOk.requestIn {w : List Entry} (h : QueueOk w) : QueueOk (requestIn w) := by
  unfold Machine.requestIn
  split
  · exact h
  · rename_i hm
    have h0 : w.count .status = 0 := List.count_eq_zero.mpr hm
    split
    · refine ⟨by simp; omega, by simp [h0]⟩
    · have h1 : w.dropLast.count .status = 0 :=
        List.count_eq_zero.mpr fun hx => hm (List.dropLast_subset w hx)
      have h2 := h.1
      refine ⟨by simp; omega, by simp [h1]⟩

theorem QueueOk.append_reply {w : List Entry} (h : QueueOk w) (hl : w.length < 4) (p : List Byte) :
    QueueOk (w ++ [.reply p]) := by
  refine ⟨by simp; omega, ?_⟩
  have h2 := h.2
  simp only [List.count_append, List.count_cons, List.count_nil]
  simpa using h2

theorem QueueOk.erase {w : List Entry} (h : QueueOk w) (e : Entry) : QueueOk (w.erase e) :=
  ⟨Nat.le_trans List.length_erase_le h.1, Nat.le_trans (List.Sublist.count_le _ List.erase_sublist) h.2⟩

theorem queue_fillFlight {s : State} (h : QueueOk s.line.waiting) : QueueOk s.fillFlight.line.waiting := by
  unfold State.fillFlight
  split
  · exact h
  · split
    · exact h
    · rename_i hw
      rw [hw] at h
      exact h.tail

theorem queue_requestStatus {s : State} (h : QueueOk s.line.waiting) : QueueOk s.requestStatus.line.waiting := by
  unfold State.requestStatus
  split
  · exact queue_fillFlight h.requestIn
  · exact h

theorem queue_prompt {s : State} (h : QueueOk s.line.waiting) (b : State) (p : Bool) :
    QueueOk (State.prompt b p s).line.waiting := by
  unfold State.prompt
  split
  · exact queue_requestStatus h
  · exact h

theorem queue_enqueueReply {s : State} (h : QueueOk s.line.waiting) (p : List Byte) :
    QueueOk (s.enqueueReply p).line.waiting := by
  unfold State.enqueueReply
  split
  · split
    · rename_i hl
      exact queue_fillFlight (h.append_reply hl p)
    · exact h
  · exact h

theorem queue_answer {s : State} (h : QueueOk s.line.waiting) (d : Addressing) (p : List Byte) :
    QueueOk (s.answer d p).line.waiting := by
  cases d
  · exact queue_enqueueReply h p
  · exact h

theorem queue_leaveFlight {s : State} (h : QueueOk s.line.waiting) : QueueOk s.leaveFlight.line.waiting :=
  queue_fillFlight h

theorem queue_collide {s : State} (h : QueueOk s.line.waiting) (f : Flight) : QueueOk (s.collide f).line.waiting := by
  unfold State.collide
  dsimp only
  split
  · exact queue_leaveFlight h
  · split
    · exact h.erase _
    · exact h

theorem queue_completeAttempt {s : State} (h : QueueOk s.line.waiting) (f : Flight) :
    QueueOk (s.completeAttempt f).line.waiting := by
  unfold State.completeAttempt
  split <;> exact queue_leaveFlight h

theorem line_settleDemands (b s : State) : (State.settleDemands b s).line = s.line := by
  obtain ⟨g, c, k, h⟩ := resolveClosure_shape s.formOrigins.updateSag
  obtain ⟨u, hu⟩ := formWants_shape b s.formOrigins.updateSag.resolveClosure
  show (State.formWants b s.formOrigins.updateSag.resolveClosure).line = _
  rw [hu, h]
  unfold State.updateSag
  split <;> rfl

theorem line_settleShares (b s : State) : (State.settleShares b s).line = s.line := by
  unfold State.settleShares
  obtain ⟨l, u, c, h1⟩ := takeSagChange_shape b s
  obtain ⟨d, a, h2⟩ := runPass_shape b (State.takeSagChange b s)
  obtain ⟨g, e, h3⟩ := applyMotion_shape b (State.runPass b (State.takeSagChange b s)).applyCeilings
  rw [h3, h2, h1]
  rfl

theorem queue_settle {s : State} (h : QueueOk s.line.waiting) (b : State) :
    QueueOk (State.settle b s).line.waiting := by
  unfold State.settle
  split
  · exact h
  · unfold State.settleFallback
    exact queue_prompt (s := State.fallbackLamps (State.fallbackPumps b
      { s.fallbackOrigins with gate := s.fallbackOrigins.gate.deriveFallback, demands := fallbackDemands })) h b false
  · unfold State.settleRunning
    dsimp only
    refine queue_prompt ?_ b _
    rw [line_settleShares, line_settleDemands]
    exact h

/-! ### What every command but a start leaves true of line, counters and domain -/

/-- How an event without a start may leave the counters, the queue and what the retention domain follows. -/
structure EndShape (s x : State) : Prop where
  nodeStart : x.node.state = .start ↔ s.node.state = .start
  valid : x.node.retentionValid = s.node.retentionValid
  supply : x.pins.mainSupply = s.pins.mainSupply
  retention : x.retention = s.retention
  pending : s.node.state = .start → x.restartPending = s.restartPending
  counters : s.counters.Grows x.counters ∨ Counters.zero.Grows x.counters
  queue : QueueOk s.line.waiting → QueueOk x.line.waiting

theorem retention_settle (b s : State) : (State.settle b s).retention = s.retention := by
  unfold State.settle
  split
  · rfl
  · unfold State.settleFallback
    dsimp only
    obtain ⟨l, c, h⟩ := prompt_line b false (State.fallbackLamps (State.fallbackPumps b
      { s.fallbackOrigins with gate := s.fallbackOrigins.gate.deriveFallback, demands := fallbackDemands }))
    rw [h]
    rfl
  · obtain ⟨l, c, h⟩ := settleRunning_shape b s
    have e1 : (State.settleRunning b s).retention = (State.settleShares b (State.settleDemands b s)).retention := by rw [h]
    rw [e1]
    have e2 : (State.settleDemands b s).retention = s.retention := by
      obtain ⟨g, c, k, h⟩ := resolveClosure_shape s.formOrigins.updateSag
      obtain ⟨u, hu⟩ := formWants_shape b s.formOrigins.updateSag.resolveClosure
      show (State.formWants b s.formOrigins.updateSag.resolveClosure).retention = _
      rw [hu, h]
      unfold State.updateSag
      split <;> rfl
    rw [← e2]
    generalize State.settleDemands b s = d
    unfold State.settleShares
    obtain ⟨l, u, c, h1⟩ := takeSagChange_shape b d
    obtain ⟨d', a, h2⟩ := runPass_shape b (State.takeSagChange b d)
    obtain ⟨g, e, h3⟩ := applyMotion_shape b (State.runPass b (State.takeSagChange b d)).applyCeilings
    rw [h3, h2, h1]
    rfl

@[simp] theorem settle_node (b s : State) : (State.settle b s).node = s.node := node_of_kept (kept_settle b s)

@[simp] theorem settle_pins (b s : State) : (State.settle b s).pins = s.pins := by
  have e := congrArg State.pins (kept_settle b s)
  exact e

@[simp] theorem settle_profile (b s : State) : (State.settle b s).profile = s.profile := by
  have e := congrArg State.profile (kept_settle b s)
  exact e

@[simp] theorem settle_restartPending (b s : State) : (State.settle b s).restartPending = s.restartPending := by
  have e := congrArg State.restartPending (kept_settle b s)
  exact e

theorem settle_start (b : State) {s : State} (h : s.node.state = .start) : State.settle b s = s := by
  unfold State.settle
  rw [h]

namespace EndShape

theorem refl (s : State) : EndShape s s :=
  ⟨Iff.rfl, rfl, rfl, rfl, fun _ => rfl, Or.inl .same, id⟩

theorem settle {s u : State} (h : EndShape s u) (b : State) : EndShape s (State.settle b u) where
  nodeStart := by rw [settle_node]; exact h.nodeStart
  valid := by rw [settle_node]; exact h.valid
  supply := by rw [settle_pins]; exact h.supply
  retention := (retention_settle b u).trans h.retention
  pending := fun k => by rw [settle_restartPending]; exact h.pending k
  counters := h.counters.imp (fun g => grown_settle g b) (fun g => grown_settle g b)
  queue := fun q => queue_settle (h.queue q) b

/-- A change that touches none of these items. -/
theorem change {s u v : State} (h : EndShape s u) (hn : v.node = u.node) (hp : v.pins.mainSupply = u.pins.mainSupply)
    (hr : v.retention = u.retention) (hq : v.restartPending = u.restartPending) (hc : v.counters = u.counters)
    (hl : v.line = u.line) : EndShape s v where
  nodeStart := by rw [hn]; exact h.nodeStart
  valid := by rw [hn]; exact h.valid
  supply := hp.trans h.supply
  retention := hr.trans h.retention
  pending := fun k => hq.trans (h.pending k)
  counters := by rw [hc]; exact h.counters
  queue := fun q => by rw [hl]; exact h.queue q

theorem elapse {s u : State} (h : EndShape s u) (d : Time) : EndShape s (u.elapse d) where
  nodeStart := by simp [h.nodeStart]
  valid := by simp [h.valid]
  supply := by simp [h.supply]
  retention := by simp [h.retention]
  pending := fun k => by simp [h.pending k]
  counters := by simpa using h.counters
  queue := fun q => by simpa using h.queue q

end EndShape

/-- How a command that is no start may end: by the end of an event, without one and without a retained item changed, or
with a character of another station heard after either. -/
inductive EndOf (s : State) : State → Prop where
  | done {x : State} (h : EndShape s x) : EndOf s x.finish
  | plain {x : State} (h : EndShape s x) (hp : x.restartPending = s.restartPending)
      (hr : x.retainedItems = s.retainedItems) : EndOf s x
  | heard {t : State} (h : EndOf s t) (v : Byte) (k : Bool) : EndOf s (t.hearChar v k)

theorem EndOf.refl (s : State) : EndOf s s := EndOf.plain (EndShape.refl s) rfl rfl

theorem EndOf.endEvent {s b u : State} (h : EndShape s u) : EndOf s (State.endEvent b u) := EndOf.done (h.settle b)

/-- The retained items read nothing that time changes. -/
theorem retainedItems_elapse (d : Time) (s : State) : (s.elapse d).retainedItems = s.retainedItems := by
  have h1 : (s.elapse d).pumps.p1.retained = s.pumps.p1.retained := by
    have e := congrArg PumpRec.retained (elapse_pump d s .one)
    exact e
  have h2 : (s.elapse d).pumps.p2.retained = s.pumps.p2.retained := by
    have e := congrArg PumpRec.retained (elapse_pump d s .two)
    exact e
  have h3 : (s.elapse d).lamps.retainedHealths = s.lamps.retainedHealths := by
    unfold Lamps.retainedHealths
    rw [elapse_lampRecs]
  unfold State.retainedItems
  simp [h1, h2, h3]

namespace EndShape

theorem answer {s u : State} (h : EndShape s u) (d : Addressing) (p : List Byte) : EndShape s (u.answer d p) := by
  obtain ⟨l, c, e⟩ := answer_line d p u
  refine ⟨?_, ?_, ?_, ?_, ?_, h.counters.imp (fun g => grown_answer g d p) (fun g => grown_answer g d p),
    fun q => queue_answer (h.queue q) d p⟩
  · rw [e]; exact h.nodeStart
  · rw [e]; exact h.valid
  · rw [e]; exact h.supply
  · rw [e]; exact h.retention
  · rw [e]; exact h.pending

theorem act {s u : State} (h : EndShape s u) (c : MaintCommand) : EndShape s (u.act c) := by
  cases c <;> unfold State.act <;> dsimp only
  case pumpManual n d => split <;> first | exact h.change rfl rfl rfl rfl rfl rfl | exact h
  case pumpAuto n => split <;> first | exact h.change rfl rfl rfl rfl rfl rfl | exact h
  case lampManual n d => split <;> first | exact h.change rfl rfl rfl rfl rfl rfl | exact h
  case lampAuto n => split <;> first | exact h.change rfl rfl rfl rfl rfl rfl | exact h
  all_goals first | exact h | exact h.change rfl rfl rfl rfl rfl rfl

theorem takeRestart {s u : State} (h : EndShape s u) (hs : s.node.state ≠ .start) (d : Addressing) :
    EndShape s (u.takeRestart d) := by
  unfold State.takeRestart
  dsimp only
  split
  · exact ⟨h.nodeStart, h.valid, h.supply, h.retention, fun k => absurd k hs, h.counters, h.queue⟩
  · have hp : EndShape s { u with restartPending := true } :=
      ⟨h.nodeStart, h.valid, h.supply, h.retention, fun k => absurd k hs, h.counters, h.queue⟩
    exact hp.answer .addressed _

theorem accept {s b u : State} (h : EndShape s u) (hs : s.node.state ≠ .start) (d : Addressing) (c : MaintCommand) :
    EndShape s (State.accept d c b u) := by
  cases c <;> unfold State.accept <;> dsimp only
  case restart => exact h.takeRestart hs d
  case dump => exact h.answer d _
  case query p => exact h.answer d _
  case dumpAndZero =>
    have hz : EndShape s { u with counters := Counters.zero } :=
      ⟨h.nodeStart, h.valid, h.supply, h.retention, h.pending, Or.inr .same, h.queue⟩
    exact hz.answer d _
  all_goals exact ((h.act _).settle b).answer d _

theorem line {s u : State} {l : Line} (h : EndShape s u) (hw : l.waiting = u.line.waiting) :
    EndShape s { u with line := l } where
  nodeStart := h.nodeStart
  valid := h.valid
  supply := h.supply
  retention := h.retention
  pending := h.pending
  counters := h.counters
  queue := fun q => by
    have e := h.queue q
    rw [← hw] at e
    exact e

theorem count {s u : State} (h : EndShape s u) (n : CounterName) : EndShape s (u.count n) :=
  ⟨h.nodeStart, h.valid, h.supply, h.retention, h.pending,
    h.counters.imp (fun g => g.raise n) (fun g => g.raise n), h.queue⟩

theorem hearFrame {s u : State} (h : EndShape s u) : EndShape s u.hearFrame := by
  unfold State.hearFrame
  split
  · exact h.change rfl rfl rfl rfl rfl rfl
  · exact h

end EndShape

theorem EndOf.takeCommand {s b u : State} (h : EndShape s u) (d : Addressing) (f : PayloadForm) :
    EndOf s (State.takeCommand d f b u) := by
  unfold State.takeCommand
  split
  · exact EndOf.done h
  · exact EndOf.done (h.answer d _)
  · rename_i c hv
    have hs : s.node.state ≠ .start := by
      intro k
      have hu := h.nodeStart.mpr k
      unfold State.verdict at hv
      rw [hu] at hv
      cases hv
    exact EndOf.done (h.accept hs d c)

theorem EndShape.takeStatus {s u : State} (h : EndShape s u) (a : Byte) (n : Nat) (p : List Byte) :
    EndShape s (u.takeStatus a n p) := by
  unfold State.takeStatus
  split
  · rename_i hr
    have hs : s.node.state ≠ .start := by
      intro k
      have hu := h.nodeStart.mpr k
      rw [hu] at hr
      cases hr
    have hus : u.node.state ≠ .start := fun k => hs (h.nodeStart.mp k)
    split
    · split
      · unfold State.clashReport
        split
        all_goals first
          | exact h
          | exact ⟨⟨fun k => by simp at k, fun k => absurd k hs⟩, h.valid, h.supply, h.retention, h.pending,
              h.counters, fun _ => QueueOk.nil⟩
      · have ht : ∀ i q rep, EndShape s (u.takePeer i q rep) := fun i q rep =>
          ⟨h.nodeStart, h.valid, h.supply, h.retention, h.pending,
            h.counters.imp (fun g => g.raiseIf _ _) (fun g => g.raiseIf _ _), h.queue⟩
        rename_i i _ _
        have hp := ht i n (reportOf p)
        generalize u.takePeer i n (reportOf p) = v at *
        unfold State.peerReport
        split
        · exact ⟨⟨fun k => by simp at k, fun k => absurd k hs⟩, hp.valid, hp.supply, hp.retention, hp.pending,
            hp.counters, hp.queue⟩
        all_goals exact hp
    · exact h
  · exact h

theorem EndOf.dispatch {s b u : State} (h : EndShape s u) (k a d q : Byte) (p : List Byte) :
    EndOf s (State.dispatch b k a d q p u) := by
  unfold State.dispatch
  split
  · exact EndOf.endEvent (h.takeStatus a _ p)
  · split
    · split
      · exact EndOf.takeCommand h _ _
      · exact EndOf.done h
    · exact EndOf.done h

theorem EndOf.closeFrame {s u : State} (h : EndShape s u) (f : RxFrame) : EndOf s (u.closeFrame f) := by
  have hc : EndShape s { u with line := { u.line with rx := none, echo := false } } := h.line rfl
  unfold State.closeFrame
  dsimp only
  split
  · exact EndOf.done hc
  · split
    · exact EndOf.done (hc.count _)
    · exact EndOf.done (hc.count _)
    · exact EndOf.dispatch (hc.count _).hearFrame _ _ _ _ _

/-- An event after an interval that changes none of these items by itself. -/
theorem EndOf.event {s s0 u : State} {d : Time} (h0 : EndShape s s0) (hn : u.node = (s0.elapse d).node)
    (hp : u.pins.mainSupply = (s0.elapse d).pins.mainSupply) (hr : u.retention = (s0.elapse d).retention)
    (hq : u.restartPending = (s0.elapse d).restartPending) (hc : u.counters = (s0.elapse d).counters)
    (hl : u.line = (s0.elapse d).line) : EndOf s (State.endEvent (s0.elapse d) u) :=
  EndOf.endEvent ((h0.elapse d).change hn hp hr hq hc hl)

/-- An event after an interval that raises one counter. -/
theorem EndOf.countedEvent {s s0 u : State} {d : Time} {n : CounterName} (h0 : EndShape s s0)
    (hn : u.node = (s0.elapse d).node) (hp : u.pins.mainSupply = (s0.elapse d).pins.mainSupply)
    (hr : u.retention = (s0.elapse d).retention) (hq : u.restartPending = (s0.elapse d).restartPending)
    (hc : u.counters = (s0.elapse d).counters) (hl : u.line = (s0.elapse d).line) :
    EndOf s (State.endEvent (s0.elapse d) (u.count n)) :=
  EndOf.endEvent (((h0.elapse d).change hn hp hr hq hc hl).count n)

/-- The commands of the starts and supplies, which begin START or lose the domain. -/
def isStartCommand : Instr → Bool
  | .powerOn _ | .resetPinAssert | .resetPinRelease _ | .brownOut | .brownOutRecovery _ | .endOfStart _
  | .backupSupplyLoss => true
  | _ => false

theorem withPins {s : State} {q : Pins} (h : q.mainSupply = s.pins.mainSupply) : EndShape s { s with pins := q } :=
  (EndShape.refl s).change rfl h rfl rfl rfl rfl

theorem EndOf.sampleEvent (r : SampleReads) (s : State) : EndOf s (s.sampleEvent r) := by
  unfold State.sampleEvent
  split
  · exact EndOf.refl s
  · have h : EndShape s s.atSample := (EndShape.refl s).elapse _
    have hk : EndShape s (s.atSample.takeSample r) := by
      generalize s.atSample = u at *
      unfold State.takeSample
      split
      · exact h
      · exact h.change rfl rfl rfl rfl rfl rfl
      · refine ⟨h.nodeStart, h.valid, h.supply, h.retention, h.pending, ?_, h.queue⟩
        show _ ∨ _
        dsimp only
        generalize (LevelMonitor.sample u.profile u.level r).2 = o
        cases o
        · exact h.counters
        · exact h.counters.imp (fun g => g.raise .calAccepted) (fun g => g.raise .calAccepted)
        · exact h.counters.imp (fun g => g.raise .calRejected) (fun g => g.raise .calRejected)
    exact EndOf.endEvent hk

theorem EndOf.sampleWhere (b : Bool) (r : SampleReads) (s : State) : EndOf s (s.sampleWhere b r) := by
  cases b
  · exact EndOf.refl s
  · exact EndOf.sampleEvent r s

theorem EndOf.tickEvent (r : LampReads) (s : State) : EndOf s (s.tickEvent r) := by
  unfold State.tickEvent
  split
  · exact EndOf.refl s
  · have h : EndShape s s.atTick := (EndShape.refl s).elapse _
    have hk : EndShape s (s.atTick.takeTick r) := by
      generalize s.atTick = u at *
      unfold State.takeTick
      split
      · exact h
      · exact h.change rfl rfl rfl rfl rfl rfl
      · exact ⟨h.nodeStart, h.valid, h.supply, h.retention, h.pending,
          h.counters.imp (fun g => g.raiseTimes _ _) (fun g => g.raiseTimes _ _), h.queue⟩
    exact EndOf.endEvent hk

theorem EndOf.tickWhere (b : Bool) (r : LampReads) (s : State) : EndOf s (s.tickWhere b r) := by
  cases b
  · exact EndOf.refl s
  · exact EndOf.tickEvent r s

theorem EndOf.ownChar (s : State) : EndOf s s.ownChar := by
  unfold State.ownChar
  split
  · split
    · refine EndOf.plain (((EndShape.refl s).elapse _).line ?_) ?_ ?_
      · rfl
      · exact elapse_restartPending _ s
      · exact retainedItems_elapse _ s
    · exact EndOf.refl s
  · exact EndOf.refl s

theorem EndOf.elapse (d : Time) (s : State) : EndOf s (s.elapse d) :=
  EndOf.plain ((EndShape.refl s).elapse d) (elapse_restartPending d s) (retainedItems_elapse d s)

theorem EndOf.otherChar (w : Time) (v : Byte) (k : Bool) (s : State) : EndOf s (s.otherChar w v k) := by
  unfold State.otherChar
  split
  · exact EndOf.elapse w s
  · apply EndOf.heard
    unfold State.closeOverdue
    split
    · split
      · exact EndOf.elapse w s
      · exact EndOf.closeFrame ((EndShape.refl s).elapse w) _
    · exact EndOf.elapse w s

theorem EndOf.beginAttempt (d : Time) (f : Flight) (s : State) : EndOf s ((s.elapse d).beginAttempt f) := by
  refine EndOf.plain (((EndShape.refl s).elapse d).line ?_) ?_ ?_
  · rfl
  · exact elapse_restartPending d s
  · exact retainedItems_elapse d s

/-- A line operation that leaves the node, the pins, the domain and restart pending. -/
theorem EndShape.lineOp {s u v : State} (h : EndShape s u) (hv : ∃ l c, v = { u with line := l, counters := c })
    (hc : u.counters.Grows v.counters) (hq : QueueOk u.line.waiting → QueueOk v.line.waiting) : EndShape s v := by
  obtain ⟨l, c, e⟩ := hv
  refine ⟨?_, ?_, ?_, ?_, ?_, h.counters.imp (fun g => g.trans hc) (fun g => g.trans hc), fun q => hq (h.queue q)⟩
  · rw [e]; exact h.nodeStart
  · rw [e]; exact h.valid
  · rw [e]; exact h.supply
  · rw [e]; exact h.retention
  · rw [e]; exact h.pending

theorem EndOf.collision (v : Byte) (k : Bool) (s : State) : EndOf s (s.collision v k) := by
  unfold State.collision
  split
  · split
    · exact EndOf.done (((EndShape.refl s).elapse _).lineOp (collide_line _ _) (grown_collide .same _)
        fun q => queue_collide q _)
    · exact EndOf.refl s
  · exact EndOf.refl s

theorem EndShape.toFrameEnd (f : Flight) (s : State) : EndShape s (s.toFrameEnd f) := by
  unfold State.toFrameEnd
  dsimp only
  split
  · exact (EndShape.refl s).elapse _
  · have h1 : ∀ (fr : List Byte) (u : State), EndShape s u → EndShape s (State.sendRest f fr u) :=
      fun fr u h => h.line (l := (State.sendRest f fr u).line) rfl
    exact (h1 _ _ ((EndShape.refl s).elapse _)).elapse _

theorem EndOf.attemptComplete (s : State) : EndOf s s.attemptComplete := by
  unfold State.attemptComplete
  split
  · split
    · exact EndOf.done ((EndShape.toFrameEnd _ s).lineOp (completeAttempt_line _ _) (grown_completeAttempt .same _)
        fun q => queue_completeAttempt q _)
    · exact EndOf.refl s
  · exact EndOf.refl s

theorem EndOf.reportExpiry (s : State) : EndOf s s.reportExpiry := by
  unfold State.reportExpiry
  split
  · exact EndOf.done (((EndShape.refl s).elapse _).lineOp (requestStatus_line _) (grown_requestStatus .same)
      queue_requestStatus)
  · exact EndOf.refl s

/-- How a command that is no start may end. -/
theorem exec_end {c : Instr} {s t : State} (h : exec c s = .next t) (hc : isStartCommand c = false) : EndOf s t := by
  have hr := EndShape.refl s
  cases c <;> first | (simp [isStartCommand] at hc; done) | skip
  all_goals injection h with h; subst h
  case sample r => exact EndOf.sampleEvent r s
  case sensorFaultSet r => exact EndOf.sampleWhere _ r s
  case sensorFaultClear r => exact EndOf.sampleWhere _ r s
  case floatChange r => exact EndOf.sampleWhere _ r s
  case calibrationComplete r => exact EndOf.sampleWhere _ r s
  case frameClose =>
    unfold State.frameClose
    split
    · split
      · exact EndOf.refl s
      · exact EndOf.closeFrame (hr.elapse _) _
    · exact EndOf.refl s
  case recordStale i =>
    unfold State.recordStale
    split
    · exact EndOf.event hr rfl rfl rfl rfl rfl rfl
    · exact EndOf.refl s
  case recordGone i =>
    unfold State.recordGone
    split
    · exact EndOf.event hr rfl rfl rfl rfl rfl rfl
    · exact EndOf.refl s
  case lineSilenceExpiry =>
    unfold State.lineSilence
    split
    · have h1 : ∀ u : State, EndShape s u → EndShape s u.silenceReport := by
        intro u hu
        unfold State.silenceReport
        split
        · rename_i ha
          have hs : s.node.state ≠ .start := fun k => by rw [hu.nodeStart.mpr k] at ha; cases ha
          exact ⟨⟨fun k => by simp at k, fun k => absurd k hs⟩, hu.valid, hu.supply, hu.retention, hu.pending,
            hu.counters, hu.queue⟩
        all_goals exact hu
      exact EndOf.endEvent (h1 _ ((hr.elapse _).change rfl rfl rfl rfl rfl rfl))
    · exact EndOf.refl s
  case supplySourceChange p =>
    unfold State.supplyChange
    split
    · exact EndOf.event (withPins rfl) rfl rfl rfl rfl rfl rfl
    · exact EndOf.refl s
  case ownSagSet n =>
    unfold State.sagSet
    split
    · exact EndOf.event (withPins rfl) rfl rfl rfl rfl rfl rfl
    · exact EndOf.refl s
  case ownSagClear n =>
    unfold State.sagClear
    split
    · exact EndOf.event (withPins rfl) rfl rfl rfl rfl rfl rfl
    · exact EndOf.refl s
  case sagHoldEnd =>
    unfold State.sagHoldEnd
    split
    · split
      · exact EndOf.refl s
      · exact EndOf.event hr rfl rfl rfl rfl rfl rfl
    · exact EndOf.refl s
  case loopStep =>
    unfold State.loopEvent
    split
    · have h1 : ∀ u : State, EndShape s u → EndShape s u.stepLoop := by
        intro u hu
        unfold State.stepLoop
        split
        · dsimp only
          split <;> exact hu.change rfl rfl rfl rfl rfl rfl
        · exact hu.change rfl rfl rfl rfl rfl rfl
      exact EndOf.endEvent (h1 _ ((hr.elapse _).change rfl rfl rfl rfl rfl rfl))
    · exact EndOf.refl s
  case switchChange n p =>
    unfold State.switchEvent
    dsimp only
    split
    · exact EndOf.event (withPins (by cases n <;> rfl)) rfl rfl rfl rfl rfl rfl
    · exact EndOf.refl s
  case restTimerExpiry n =>
    unfold State.restExpiry
    split
    · split
      · exact EndOf.refl s
      · exact EndOf.event hr rfl rfl rfl rfl rfl rfl
    · exact EndOf.refl s
  case overcurrentTrip n k =>
    unfold State.overcurrent
    split
    · exact EndOf.countedEvent (withPins (by cases n <;> rfl)) rfl rfl rfl rfl rfl rfl
    · exact EndOf.refl s
  case dryrunTrip n k =>
    unfold State.dryrun
    split
    · exact EndOf.countedEvent (withPins (by cases n <;> rfl)) rfl rfl rfl rfl rfl rfl
    · exact EndOf.refl s
  case retryExpiry n =>
    unfold State.retryExpiry
    split
    · split
      · exact EndOf.refl s
      · exact EndOf.event hr rfl rfl rfl rfl rfl rfl
    · exact EndOf.refl s
  case dryStageClear =>
    unfold State.dryStageClear
    split
    · split
      · exact EndOf.event hr rfl rfl rfl rfl rfl rfl
      · exact EndOf.refl s
      · exact EndOf.refl s
    · exact EndOf.refl s
  case runMinute n =>
    unfold State.runMinute
    split
    · exact EndOf.countedEvent hr rfl rfl rfl rfl rfl rfl
    · exact EndOf.refl s
  case outsideFilterChange a =>
    unfold State.outsideChange
    split
    · exact EndOf.event (withPins rfl) rfl rfl rfl rfl rfl rfl
    · exact EndOf.refl s
  case warnTimerExpiry =>
    unfold State.warnExpiry
    split
    · exact EndOf.event hr rfl rfl rfl rfl rfl rfl
    · exact EndOf.refl s
  case clearanceTimerExpiry =>
    unfold State.clearanceExpiry
    split
    · exact EndOf.event hr rfl rfl rfl rfl rfl rfl
    · exact EndOf.refl s
  case presenceClear =>
    unfold State.presenceEvent
    split
    · exact EndOf.event (withPins rfl) rfl rfl rfl rfl rfl rfl
    · exact EndOf.refl s
  case maxClearExpiry =>
    unfold State.maxClear
    split
    · exact EndOf.event hr rfl rfl rfl rfl rfl rfl
    · exact EndOf.refl s
  case reopenHoldExpiry =>
    unfold State.reopenExpiry
    split
    · split
      · exact EndOf.refl s
      · exact EndOf.event hr rfl rfl rfl rfl rfl rfl
    · exact EndOf.refl s
  case limitChange w a =>
    unfold State.limitEvent
    split
    · have hw : EndShape s { s with pins := s.pins.withLimit w a } := withPins (by cases w <;> rfl)
      dsimp only
      split
      · exact EndOf.event hw rfl rfl rfl rfl rfl rfl
      · refine EndOf.endEvent ?_
        have he := hw.elapse (timeToReads (ms 10) (3 - (s.gate.limit w).count) s.node.readClock)
        exact ⟨he.nodeStart, he.valid, he.supply, he.retention, he.pending,
          he.counters.imp (fun g => grown_putGate g _) (fun g => grown_putGate g _), he.queue⟩
    · exact EndOf.refl s
  case keyTakeover d =>
    unfold State.keyTakeover State.atKeyRead
    split
    · exact EndOf.event (withPins rfl) rfl rfl rfl rfl rfl rfl
    · exact EndOf.refl s
  case keyRelease =>
    unfold State.keyRelease State.atKeyRead
    split
    · exact EndOf.event (withPins rfl) rfl rfl rfl rfl rfl rfl
    · exact EndOf.refl s
  case gateStall k =>
    unfold State.gateStall
    split
    · exact EndOf.countedEvent (withPins rfl) rfl rfl rfl rfl rfl rfl
    · exact EndOf.refl s
  case backoffEnd =>
    unfold State.backoffEnd
    split
    · split
      · exact EndOf.refl s
      · exact EndOf.event hr rfl rfl rfl rfl rfl rfl
    · exact EndOf.refl s
  case travelMaximum =>
    unfold State.travelMaximum
    split
    · exact EndOf.event hr rfl rfl rfl rfl rfl rfl
    · exact EndOf.refl s
  case lampTick r => exact EndOf.tickEvent r s
  case lampFailed r => exact EndOf.tickWhere _ r s
  case lampShorted r => exact EndOf.tickWhere _ r s
  case lineCharacter k =>
    cases k with
    | own => exact EndOf.ownChar s
    | other w v => exact EndOf.otherChar w _ _ s
  case attemptStart =>
    unfold State.attemptStart
    split
    · split
      · exact EndOf.beginAttempt _ _ s
      · exact EndOf.refl s
    · exact EndOf.refl s
  case retryStart =>
    unfold State.retryStart
    split
    · split
      · exact EndOf.beginAttempt _ _ s
      · exact EndOf.refl s
    · exact EndOf.refl s
  case collision v k => exact EndOf.collision v k s
  case attemptComplete => exact EndOf.attemptComplete s
  case reportTimerExpiry => exact EndOf.reportExpiry s
  case listenTimerExpiry =>
    unfold State.listenExpiry
    split
    · rename_i hl
      have hs : s.node.state ≠ .start := fun k => by rw [k] at hl; cases hl
      have he := hr.elapse (ms (4 * s.profile.reportPeriod) - s.node.listenTimer)
      exact EndOf.endEvent ⟨⟨fun k => by simp at k, fun k => absurd k hs⟩, he.valid, he.supply, he.retention,
        he.pending, he.counters, he.queue⟩
    · exact EndOf.refl s
  all_goals exact EndOf.takeCommand hr _ _

end Sys2Proof.Machine
end

