-- ==== Sys2Proof/Laws/Follows.lean ====
section
/-! SUPPORT. What a settled state satisfies of the items that follow from others: the own origins, the gate's demand, the
wants, the pumps' table, the demands and the lamps (R63, R73, R74, R89, R90, R104, R112, R134 to R140). -/

set_option Elab.async false

namespace Sys2Proof.Machine

open Sys2Proof

/-! ### Origins and the gate's demand -/

theorem stage_of_kept {s t : State} (h : t.kept = s.kept) :
    t.level.stage = s.level.stage ∧ t.level.level = s.level.level ∧ t.level.dry = s.level.dry := by
  have h1 : t.level.stage = s.level.stage := by have k := congrArg (fun u : State => u.level.stage) h; exact k
  have h2 : t.level.level = s.level.level := by have k := congrArg (fun u : State => u.level.level) h; exact k
  have h3 : t.level.dry = s.level.dry := by have k := congrArg (fun u : State => u.level.dry) h; exact k
  exact ⟨h1, h2, h3⟩

theorem outside_of_kept {s t : State} (h : t.kept = s.kept) : t.closure.outside = s.closure.outside := by
  have k := congrArg (fun u : State => u.closure.outside) h
  exact k

theorem origins_settleRunning (b s : State) : (State.settleRunning b s).originsFollow := by
  intro _
  have e := kept_settleRunning b s
  rw [own_settleRunning, (stage_of_kept e).1, outside_of_kept e, settleRunning_profile]
  exact ⟨rfl, rfl⟩

theorem Gate.demand_resolve (p : GateProfile) (g : Gate) : (g.resolve p).demand = g.demand := by
  have hf : g.formLimitsJam.demand = g.demand := by unfold Gate.formLimitsJam; split <;> rfl
  unfold Gate.resolve
  dsimp only
  rw [← hf]
  generalize g.formLimitsJam = x
  split
  · unfold Gate.underKey
    split
    · rfl
    · split <;> rfl
  · split
    · rfl
    · split
      · unfold Gate.underHold
        split <;> rfl
      · split
        · exact (Gate.underDemand_marks p _ x).2.2.2
        · unfold Gate.atRest
          split <;> rfl

theorem Gate.demand_applyShare (p : GateProfile) (n : Nat) (g : Gate) : (g.applyShare p n).demand = g.demand := by
  unfold Gate.applyShare
  repeat' split
  all_goals rfl

theorem Gate.demand_settleStall (a g : Gate) : (Gate.settleStall a g).demand = g.demand := by
  unfold Gate.settleStall
  split <;> rfl

theorem demand_resolveGate (s : State) : s.resolveGate.gate.demand = s.gate.demand := by
  unfold State.resolveGate
  split
  · exact Gate.demand_resolve _ _
  · rfl

theorem demand_resolveClosure (s : State) :
    s.resolveClosure.gate.demand = s.resolveClosure.closure.phase.gateDemand := by
  unfold State.resolveClosure
  rw [demand_resolveGate, closure_resolveGate]
  rfl

theorem settleShares_gateDemand (b s : State) : (State.settleShares b s).gate.demand = s.gate.demand := by
  rw [settleShares_gate]
  split
  · rw [Gate.demand_settleStall, Gate.demand_applyShare]
  · rfl

theorem settleRunning_gate (b s : State) :
    (State.settleRunning b s).gate = (State.settleShares b (State.settleDemands b s)).gate := by
  obtain ⟨l, c, h⟩ := settleRunning_shape b s
  rw [h]

theorem gateDemand_settleRunning (b s : State) : (State.settleRunning b s).gateDemandFollows := by
  intro _
  rw [settleRunning_gate, settleShares_gateDemand, settleDemands_gate, demand_resolveClosure, closure_settleRunning]
  cases s.formOrigins.updateSag.resolveClosure.closure.phase <;> rfl

/-! ### The pumps -/

/-- Two states with the same settings, floats and pump marks, whatever the derivation has changed. -/
structure PumpAgree (s t : State) : Prop where
  profile : t.profile = s.profile
  dry : t.level.dry = s.level.dry
  want : t.pumps.want = s.pumps.want
  lead : t.pumps.lead = s.pumps.lead
  p1 : t.pumps.p1.kept = s.pumps.p1.kept
  p2 : t.pumps.p2.kept = s.pumps.p2.kept
  w1 : t.pumps.p1.want = s.pumps.p1.want
  w2 : t.pumps.p2.want = s.pumps.p2.want
  settled : t.pumps.settled = s.pumps.settled

theorem PumpRec.marks_of_kept {r q : PumpRec} (h : q.kept = r.kept) :
    q.fault = r.fault ∧ q.remote = r.remote ∧ q.manualDuty = r.manualDuty ∧ q.latched = r.latched ∧
    q.switch = r.switch := by
  have h1 := congrArg PumpRec.fault h
  have h2 := congrArg PumpRec.remote h
  have h3 := congrArg PumpRec.manualDuty h
  have h4 := congrArg PumpRec.latched h
  have h5 := congrArg PumpRec.switch h
  exact ⟨h1, h2, h3, h4, h5⟩

theorem PumpRec.inPool_of_kept {r q : PumpRec} (h : q.kept = r.kept) (pp : PumpProfile) : q.inPool pp = r.inPool pp := by
  obtain ⟨h1, h2, -, h4, h5⟩ := PumpRec.marks_of_kept h
  unfold PumpRec.inPool
  rw [h1, h2, h4, h5]

theorem PumpRec.eligible_of_kept {r q : PumpRec} (h : q.kept = r.kept) (pp : PumpProfile) :
    q.eligible pp = r.eligible pp := by
  obtain ⟨h1, -, -, -, h5⟩ := PumpRec.marks_of_kept h
  unfold PumpRec.eligible
  rw [h1, h5]

theorem PumpRec.inHand_of_kept {r q : PumpRec} (h : q.kept = r.kept) (pp : PumpProfile) :
    q.inHand pp = r.inHand pp := by
  obtain ⟨h1, -, -, -, h5⟩ := PumpRec.marks_of_kept h
  unfold PumpRec.inHand
  rw [h1, h5]

/-- The pumps that can lead are the eligible ones. -/
theorem canLead_iff (s : State) (n : PumpNo) : s.canLead n ↔ s.isEligible n = true := by
  simp [State.canLead, State.isEligible, PumpRec.eligible, and_assoc]

namespace PumpAgree

variable {s t : State}

theorem get (h : PumpAgree s t) (n : PumpNo) : (t.pumps.get n).kept = (s.pumps.get n).kept := by
  cases n
  · exact h.p1
  · exact h.p2

theorem wget (h : PumpAgree s t) (n : PumpNo) : (t.pumps.get n).want = (s.pumps.get n).want := by
  cases n
  · exact h.w1
  · exact h.w2

theorem pooled (h : PumpAgree s t) (n : PumpNo) : t.pooled n = s.pooled n := by
  unfold State.pooled
  rw [h.profile]
  exact PumpRec.inPool_of_kept (h.get n) _

theorem eligible (h : PumpAgree s t) (n : PumpNo) : t.isEligible n = s.isEligible n := by
  unfold State.isEligible
  rw [h.profile]
  exact PumpRec.eligible_of_kept (h.get n) _

theorem wantMax (h : PumpAgree s t) : t.wantMax = s.wantMax := by
  unfold State.wantMax
  rw [h.pooled, h.pooled]

theorem wantOf (h : PumpAgree s t) (n : PumpNo) : t.wantOf n = s.wantOf n := by
  obtain ⟨-, h2, h3, -, -⟩ := PumpRec.marks_of_kept (h.get n)
  unfold State.wantOf State.splitOf
  dsimp only
  rw [h.profile, h.dry, h.want, h.lead, h.pooled, h.pooled, h2, h3, PumpRec.eligible_of_kept (h.get n)]

theorem portionOf (h : PumpAgree s t) (hs : t.allot.shares = s.allot.shares) (n : PumpNo) :
    t.portionOf n = s.portionOf n := by
  unfold State.portionOf
  dsimp only
  rw [h.profile, h.lead, h.eligible, h.eligible, h.wget, hs]

theorem pumpStanding (h : PumpAgree s t) : t.pumpStanding = s.pumpStanding := by
  unfold State.pumpStanding PumpRec.standingPart
  rw [h.profile, PumpRec.inHand_of_kept h.p1, PumpRec.inHand_of_kept h.p2]

theorem pumpingDemand (h : PumpAgree s t) :
    t.pumps.p1.pumpingPart t.profile.pump1 + t.pumps.p2.pumpingPart t.profile.pump2 =
      s.pumps.p1.pumpingPart s.profile.pump1 + s.pumps.p2.pumpingPart s.profile.pump2 := by
  unfold PumpRec.pumpingPart
  rw [h.profile, PumpRec.eligible_of_kept h.p1, PumpRec.eligible_of_kept h.p2, h.w1, h.w2]

theorem canLead (h : PumpAgree s t) (n : PumpNo) : t.canLead n ↔ s.canLead n := by
  rw [canLead_iff, canLead_iff, h.eligible]

theorem trans {u : State} (h : PumpAgree s t) (k : PumpAgree t u) : PumpAgree s u :=
  ⟨k.profile.trans h.profile, k.dry.trans h.dry, k.want.trans h.want, k.lead.trans h.lead, k.p1.trans h.p1,
   k.p2.trans h.p2, k.w1.trans h.w1, k.w2.trans h.w2, k.settled.trans h.settled⟩

theorem rfl' (s : State) : PumpAgree s s := ⟨rfl, rfl, rfl, rfl, rfl, rfl, rfl, rfl, rfl⟩

end PumpAgree

@[simp] theorem LevelMonitor.dry_onPumps (m : LevelMonitor) (a b c : Bool) : (m.onPumps a b c).dry = m.dry := by
  unfold LevelMonitor.onPumps
  dsimp only
  cases a <;> cases b <;> cases c <;> rfl

theorem PumpAgree.derivePumps (s : State) : PumpAgree s s.derivePumps :=
  ⟨rfl, LevelMonitor.dry_onPumps _ _ _ _, rfl, rfl, rfl, rfl, rfl, rfl, rfl⟩

theorem PumpAgree.takeSagChange (b s : State) : PumpAgree s (State.takeSagChange b s) := by
  unfold State.takeSagChange
  split
  · exact PumpAgree.rfl' s
  · exact PumpAgree.derivePumps s

theorem PumpAgree.runPass (b s : State) : PumpAgree s (State.runPass b s) := by
  obtain ⟨c, a, h⟩ := runPass_shape b s
  rw [h]
  exact ⟨rfl, rfl, rfl, rfl, rfl, rfl, rfl, rfl, rfl⟩

theorem PumpAgree.applyCeilings (s : State) : PumpAgree s s.applyCeilings := by
  have h : PumpAgree s s.formCeilings := ⟨rfl, rfl, rfl, rfl, rfl, rfl, rfl, rfl, rfl⟩
  exact h.trans (PumpAgree.derivePumps _)

theorem PumpAgree.settleShares (b s : State) : PumpAgree s (State.settleShares b s) := by
  have h := ((PumpAgree.takeSagChange b s).trans (PumpAgree.runPass b _)).trans (PumpAgree.applyCeilings _)
  obtain ⟨g, e, h3⟩ := applyMotion_shape b (State.runPass b (State.takeSagChange b s)).applyCeilings
  have hl : PumpAgree (State.runPass b (State.takeSagChange b s)).applyCeilings (State.settleShares b s) := by
    unfold State.settleShares
    rw [h3]
    exact ⟨rfl, rfl, rfl, rfl, rfl, rfl, rfl, rfl, rfl⟩
  exact h.trans hl

theorem PumpAgree.settleRunning (b s : State) :
    PumpAgree (State.settleDemands b s) (State.settleRunning b s) := by
  obtain ⟨l, c, h⟩ := settleRunning_shape b s
  rw [h]
  exact (PumpAgree.settleShares b _).trans ⟨rfl, rfl, rfl, rfl, rfl, rfl, rfl, rfl, rfl⟩

/-- A lead that has moved can lead, where one can (R72). -/
theorem moveLead_eligible (b s : State) :
    (State.moveLead b s).isEligible (State.moveLead b s).pumps.lead.other = true →
    (State.moveLead b s).isEligible (State.moveLead b s).pumps.lead = true := by
  unfold State.moveLead
  split
  · rename_i h
    intro _
    change s.isEligible s.pumps.lead.other = true
    have he : State.leadSwaps b s = true ∨ s.leadYields = true := by simpa using h
    rcases he with he | he
    · unfold State.leadSwaps at he
      simp only [Bool.and_eq_true] at he
      cases s.pumps.lead
      · exact he.2
      · exact he.1.2
    · unfold State.leadYields at he
      simp only [Bool.and_eq_true] at he
      exact he.2
  · rename_i h
    intro ho
    have he : s.leadYields = false := by
      have := h
      simp only [Bool.or_eq_true, not_or, Bool.not_eq_true] at this
      exact this.2
    unfold State.leadYields at he
    rw [ho, Bool.and_true, Bool.not_eq_false'] at he
    exact he

/-- The wants a settled event forms (R67, R70 to R72). -/
theorem formWants_want (b s : State) :
    (State.formWants b s).pumps.want ≤ (State.formWants b s).wantMax ∧
    ((State.formWants b s).level.dry.debounced ≠ .wet →
      (State.formWants b s).pumps.want = 0 ∧ (State.formWants b s).pumps.settled = false) ∧
    (State.formWants b s).pumps.p1.want = (State.formWants b s).wantOf .one ∧
    (State.formWants b s).pumps.p2.want = (State.formWants b s).wantOf .two ∧
    ((State.formWants b s).isEligible (State.formWants b s).pumps.lead.other = true →
      (State.formWants b s).isEligible (State.formWants b s).pumps.lead = true) := by
  have hsplit : ∀ u : State, u.split.pumps.p1.want = u.split.wantOf .one ∧ u.split.pumps.p2.want = u.split.wantOf .two :=
    fun _ => ⟨rfl, rfl⟩
  have hel : ∀ (u : State) (n : PumpNo), u.split.isEligible n = u.isEligible n := by
    intro u n
    cases n <;> rfl
  refine ⟨?_, ?_, (hsplit _).1, (hsplit _).2, ?_⟩
  · unfold State.formWants State.moveLead State.cutWant
    split <;> split
    all_goals first | exact Nat.min_le_right _ _ | exact Nat.zero_le _
  · unfold State.formWants State.moveLead State.cutWant
    split <;> split <;> intro h <;> first | exact ⟨rfl, rfl⟩ | exact absurd (by assumption) h
  · unfold State.formWants
    rw [hel, hel]
    exact moveLead_eligible b s.cutWant

theorem PumpAgree.formWants (b s : State) :
    PumpAgree (State.formWants b s.formOrigins.updateSag.resolveClosure) (State.settleDemands b s) := by
  unfold State.settleDemands
  exact ⟨rfl, rfl, rfl, rfl, rfl, rfl, rfl, rfl, rfl⟩

theorem wants_settleRunning (b s : State) : (State.settleRunning b s).wantsFollow := by
  intro _
  have ha := (PumpAgree.formWants b s).trans (PumpAgree.settleRunning b s)
  obtain ⟨h1, h2, h3, h4, h5⟩ := formWants_want b s.formOrigins.updateSag.resolveClosure
  refine ⟨?_, ?_, ?_, ?_, ?_⟩
  · rw [ha.want, ha.wantMax]
    exact h1
  · rw [ha.want, ha.settled, ha.dry]
    exact h2
  · rw [ha.w1, ha.wantOf]
    exact h3
  · rw [ha.w2, ha.wantOf]
    exact h4
  · rw [ha.canLead, ha.canLead, ha.lead, canLead_iff, canLead_iff]
    exact h5

/-- The table of R63 holds of a record whose state has just been derived. -/
theorem PumpRec.tableHolds_apply (pp : PumpProfile) (sag : Bool) (r : PumpRec) :
    (r.apply (r.derive pp sag)).tableHolds pp sag := by
  unfold PumpRec.tableHolds
  have hf : (r.apply (r.derive pp sag)).fault = r.fault := rfl
  have hs : (r.apply (r.derive pp sag)).switch = r.switch := rfl
  have hw : (r.apply (r.derive pp sag)).want = r.want := rfl
  have hc : (r.apply (r.derive pp sag)).ceiling = r.ceiling := rfl
  have h1 : (r.apply (r.derive pp sag)).state = (r.derive pp sag).state := rfl
  have h2 : (r.apply (r.derive pp sag)).cause = (r.derive pp sag).cause := rfl
  have h3 : (r.apply (r.derive pp sag)).duty = (r.derive pp sag).duty := rfl
  have hr : (r.apply (r.derive pp sag)).rested =
      (!decide (0 < r.duty ∧ (r.derive pp sag).duty = 0) && r.rested) := by
    unfold PumpRec.apply PumpRec.rested
    dsimp only
    by_cases hd : 0 < r.duty ∧ (r.derive pp sag).duty = 0 <;> simp [hd]
  rw [hf, hs, hw, hc, h1, h2, h3, hr]
  clear hf hs hw hc h1 h2 h3 hr
  unfold PumpRec.derive
  cases hp : pp.present
  · simp
  · cases hf : r.fault with
    | locked c => simp
    | tripped c => simp
    | none =>
      cases hsw : r.switch.debounced with
      | unsettled => simp
      | off => simp
      | hand =>
        cases hr : r.rested <;> simp
      | auto =>
        by_cases hw : r.want = 0
        · simp [hw]
        · by_cases hc : pp.minDuty ≤ r.ceiling
          · by_cases hd : 0 < r.duty
            · simp [hw, hc, hd, Nat.pos_of_ne_zero hw]
            · cases sag <;> cases hr : r.rested <;>
                simp [hw, hc, hd, Nat.pos_of_ne_zero hw, Nat.not_lt.mpr hc]
          · simp [hw, hc, Nat.pos_of_ne_zero hw, Nat.lt_of_not_le hc]

theorem pumps_applyCeilings (s : State) :
    s.applyCeilings.pumps.p1.tableHolds s.profile.pump1 s.allot.sagHeld ∧
    s.applyCeilings.pumps.p2.tableHolds s.profile.pump2 s.allot.sagHeld ∧
    s.applyCeilings.pumps.p1.ceiling = ceilingOf s.profile.pump1.ratedDraw (s.portionOf .one) ∧
    s.applyCeilings.pumps.p2.ceiling = ceilingOf s.profile.pump2.ratedDraw (s.portionOf .two) :=
  ⟨PumpRec.tableHolds_apply s.profile.pump1 s.allot.sagHeld s.formCeilings.pumps.p1,
   PumpRec.tableHolds_apply s.profile.pump2 s.allot.sagHeld s.formCeilings.pumps.p2, rfl, rfl⟩

theorem pumps_settleRunning (b s : State) : (State.settleRunning b s).pumpsFollow := by
  intro _
  obtain ⟨l, c, h⟩ := settleRunning_shape b s
  have hp : (State.settleRunning b s).pumps = (State.settleShares b (State.settleDemands b s)).pumps := by rw [h]
  have ha : (State.settleRunning b s).allot = (State.settleShares b (State.settleDemands b s)).allot := by rw [h]
  rw [settleShares_pumps] at hp
  rw [settleShares_allot] at ha
  have hk := ((PumpAgree.takeSagChange b (State.settleDemands b s)).trans (PumpAgree.runPass b _))
  have hs := PumpAgree.settleRunning b s
  generalize hx : State.runPass b (State.takeSagChange b (State.settleDemands b s)) = x at *
  have hpr : (State.settleRunning b s).profile = x.profile := by rw [hs.profile, ← hk.profile]
  have hxs : PumpAgree x (State.settleRunning b s) := by
    refine ⟨hpr, ?_, ?_, ?_, ?_, ?_, ?_, ?_, ?_⟩
    · rw [hs.dry, hk.dry]
    · rw [hs.want, hk.want]
    · rw [hs.lead, hk.lead]
    · rw [hs.p1, hk.p1]
    · rw [hs.p2, hk.p2]
    · rw [hs.w1, hk.w1]
    · rw [hs.w2, hk.w2]
    · rw [hs.settled, hk.settled]
  rw [hxs.portionOf (congrArg Allotment.shares ha), hxs.portionOf (congrArg Allotment.shares ha), hpr, hp, ha]
  exact pumps_applyCeilings x

/-! ### The lamps -/

theorem LampRec.kept_marks {r q : LampRec} (h : q.kept = r.kept) : q.health = r.health ∧ q.manual = r.manual := by
  have h1 := congrArg LampRec.health h
  have h2 := congrArg LampRec.manual h
  exact ⟨h1, h2⟩

/-- Setting outputs leaves every other item of the records. -/
theorem setOutputs_rec (p : Profile) (v : LampView) (recs : Eight LampRec) (i : Fin 8) :
    ((setOutputs p v recs).get i).health = (recs.get i).health ∧
    ((setOutputs p v recs).get i).manual = (recs.get i).manual ∧
    ((setOutputs p v recs).get i).submerged = (recs.get i).submerged := by
  unfold setOutputs
  rw [Eight.get_ofFn]
  exact ⟨rfl, rfl, rfl⟩

/-- Two lamp banks that agree but for outputs and counts. -/
def LampsAgree (u v : Eight LampRec) : Prop :=
  ∀ i, (v.get i).health = (u.get i).health ∧ (v.get i).manual = (u.get i).manual ∧
    (v.get i).submerged = (u.get i).submerged

theorem sumChannels_congr {f g : Fin 8 → Nat} (h : ∀ i, f i = g i) : sumChannels f = sumChannels g := by
  have e : f = g := funext h
  rw [e]

theorem LampsAgree.litDraw {u v : Eight LampRec} (h : LampsAgree u v) (lp : Eight LampProfile) :
    litDraw lp v = litDraw lp u := by
  unfold Sys2Proof.Machine.litDraw
  refine sumChannels_congr fun i => ?_
  obtain ⟨h1, h2, h3⟩ := h i
  unfold LampRec.inLitSet
  rw [h1, h2, h3]

theorem LampsAgree.degradedOf {u v : Eight LampRec} (h : LampsAgree u v) (lp : Eight LampProfile) :
    degradedOf lp v = degradedOf lp u := by
  unfold Sys2Proof.Machine.degradedOf
  congr 1
  refine congrArg _ (funext fun i => ?_)
  rw [(h i).1]

theorem LampsAgree.standing {u v : Eight LampRec} (h : LampsAgree u v) (p : Profile) (a : Aspect) (i : Fin 8)
    (lp : LampProfile) : (v.get i).standingPart p lp a = (u.get i).standingPart p lp a := by
  obtain ⟨h1, h2, h3⟩ := h i
  unfold LampRec.standingPart
  rw [h1, h2, h3]

theorem LampRec.outputOf_congr {r q : LampRec} (h1 : q.health = r.health) (h2 : q.manual = r.manual)
    (h3 : q.submerged = r.submerged) (p : Profile) (v : LampView) (lp : LampProfile) :
    q.outputOf p v lp = r.outputOf p v lp := by
  unfold LampRec.outputOf
  rw [h1, h2, h3]

/-- The lamp controller's items after an event: the first half's, with the common level and the outputs. -/
theorem settleRunning_lamps (b s : State) :
    let d := State.settleDemands b s
    let t := State.settleRunning b s
    t.lamps =
      { d.lamps with
        common := commonLevel d.profile.minLevel d.target (litDraw d.profile.lamps d.lamps.recs) t.allot.shares.l
          d.lamps.common
        recs := setOutputs d.profile
          ⟨commonLevel d.profile.minLevel d.target (litDraw d.profile.lamps d.lamps.recs) t.allot.shares.l
            d.lamps.common, d.lamps.aspect, d.closure.phase, d.lamps.amberCounter, d.lamps.guidanceCounter⟩
          d.lamps.recs } := by
  dsimp only
  obtain ⟨l, c, h⟩ := settleRunning_shape b s
  have ha : (State.settleRunning b s).allot = (State.settleShares b (State.settleDemands b s)).allot := by rw [h]
  have hl : (State.settleRunning b s).lamps = (State.settleShares b (State.settleDemands b s)).lamps := by rw [h]
  rw [ha, hl]
  generalize State.settleDemands b s = d
  unfold State.settleShares
  obtain ⟨l, u, c, h1⟩ := takeSagChange_shape b d
  obtain ⟨d', a, h2⟩ := runPass_shape b (State.takeSagChange b d)
  obtain ⟨g, e, h3⟩ := applyMotion_shape b (State.runPass b (State.takeSagChange b d)).applyCeilings
  rw [h3, h2, h1]
  rfl

/-- What the first half of an event makes of the lamps (R137, R138, R140). -/
theorem settleDemands_lamps (b s : State) :
    let d := State.settleDemands b s
    (∀ i, (d.lamps.recs.get i).submerged = submergedAt d.profile d.level.stage d.level.level (d.profile.lamps.get i)) ∧
    d.lamps.degraded = degradedOf d.profile.lamps d.lamps.recs ∧
    d.lamps.aspect = aspectOf d.profile.lamps d.closure.phase d.reportedGate d.lamps.degraded := by
  dsimp only
  unfold State.settleDemands
  refine ⟨fun i => ?_, rfl, rfl⟩
  show ((formSubmerged _ _ _ _).get i).submerged = _
  unfold formSubmerged
  rw [Eight.get_ofFn]
  rfl

/-- The gate acts on the aspect in OPEN alone, where no demand moves it. -/
theorem aspectOf_gate {lp : Eight LampProfile} {ph : Phase} {g k : Option GateState} {d : Bool}
    (h : ph = .opened → k = g) : aspectOf lp ph k d = aspectOf lp ph g d := by
  by_cases hp : ph = .opened
  · rw [h hp]
  · unfold aspectOf
    split
    · rfl
    · cases ph <;> first | exact absurd rfl hp | rfl

theorem Gate.applyShare_undemanded {p : GateProfile} {n : Nat} {g : Gate} (h : g.demand = none) :
    g.applyShare p n = g := by
  have hw : g.wantsShare = false := by simp [Gate.wantsShare, h]
  unfold Gate.applyShare
  rw [hw]
  rfl

/-- In OPEN the second half of an event leaves the gate's state. -/
theorem settleRunning_gateState {b s : State} (h : (State.settleRunning b s).closure.phase = .opened) :
    (State.settleRunning b s).gate.state = (State.settleDemands b s).gate.state := by
  rw [settleRunning_gate, settleShares_gate]
  have hd : (State.settleDemands b s).gate.demand = none := by
    rw [settleDemands_gate, demand_resolveClosure, ← closure_settleRunning b s, h]
    rfl
  split
  · rw [Gate.state_settleStall, Gate.applyShare_undemanded hd]
  · rfl

theorem settleRunning_closure (b s : State) :
    (State.settleRunning b s).closure = (State.settleDemands b s).closure := by
  rw [closure_settleRunning, closure_settleDemands]

theorem kept_settled (b s : State) : (State.settleRunning b s).kept = (State.settleDemands b s).kept := by
  rw [kept_settleRunning, kept_settleDemands]

theorem profile_settled (b s : State) : (State.settleRunning b s).profile = (State.settleDemands b s).profile := by
  have e := congrArg State.profile (kept_settled b s)
  exact e

theorem lampsAgree_settled (b s : State) :
    LampsAgree (State.settleDemands b s).lamps.recs (State.settleRunning b s).lamps.recs := by
  intro i
  rw [settleRunning_lamps]
  exact setOutputs_rec _ _ _ i

theorem target_settled (b s : State) : (State.settleRunning b s).target = (State.settleDemands b s).target := by
  unfold State.target
  rw [settleRunning_lamps, settleRunning_closure, profile_settled]

theorem lamps_settleRunning (b s : State) : (State.settleRunning b s).lampsFollow := by
  intro _
  have hl := settleRunning_lamps b s
  have ha := lampsAgree_settled b s
  have hk := stage_of_kept (kept_settled b s)
  obtain ⟨h1, h2, h3⟩ := settleDemands_lamps b s
  have hd : (State.settleRunning b s).lamps.degraded = (State.settleDemands b s).lamps.degraded := by rw [hl]
  refine ⟨fun i => ?_, ?_, ?_, fun hz => ?_, fun i => ?_⟩
  · rw [(ha i).2.2, hk.1, hk.2.1, profile_settled]
    exact h1 i
  · rw [hd, ha.degradedOf, profile_settled]
    exact h2
  · rw [hd, settleRunning_closure, profile_settled]
    have hasp : (State.settleRunning b s).lamps.aspect = (State.settleDemands b s).lamps.aspect := by rw [hl]
    rw [hasp, h3]
    symm
    refine aspectOf_gate fun hp => ?_
    have hg := settleRunning_gateState (b := b) (s := s) (by rw [settleRunning_closure]; exact hp)
    have hr : (State.settleRunning b s).gateRead = (State.settleDemands b s).gateRead := by
      unfold State.gateRead
      rw [settleRunning_node, settleDemands_node, profile_settled]
    unfold State.reportedGate
    rw [hr, hg]
  · rw [ha.litDraw, profile_settled] at hz ⊢
    rw [target_settled]
    have hc : (State.settleRunning b s).lamps.common = _ := congrArg Lamps.common hl
    rw [hc]
    unfold commonLevel
    rw [if_neg hz]
  · obtain ⟨k1, k2, k3⟩ := ha i
    rw [LampRec.outputOf_congr k1 k2 k3, profile_settled]
    have hv : (State.settleRunning b s).lampView =
        ⟨commonLevel (State.settleDemands b s).profile.minLevel (State.settleDemands b s).target
          (litDraw (State.settleDemands b s).profile.lamps (State.settleDemands b s).lamps.recs)
          (State.settleRunning b s).allot.shares.l (State.settleDemands b s).lamps.common,
         (State.settleDemands b s).lamps.aspect, (State.settleDemands b s).closure.phase,
         (State.settleDemands b s).lamps.amberCounter, (State.settleDemands b s).lamps.guidanceCounter⟩ := by
      unfold State.lampView
      rw [settleRunning_closure, hl]
    rw [hv, hl]
    unfold setOutputs
    rw [Eight.get_ofFn]

/-! ### The demands -/

/-- A resolved gate that the share is judged for is HELD for want of share or moves (R114, R117). -/
theorem Gate.holdCause_resolve {p : GateProfile} {g : Gate} (hw : (g.resolve p).wantsShare = true)
    (hs : (g.resolve p).state = .held) : (g.resolve p).holdCause = some .share := by
  have hk : (g.resolve p).keyDrive = none := by
    unfold Gate.wantsShare at hw
    simp only [Bool.and_eq_true, Option.isNone_iff_eq_none] at hw
    exact hw.1.1.1.1
  have hg : g.keyDrive = none := by
    rw [← hk]
    exact (Gate.keyDrive_of_kept (Gate.kept_resolve p g)).symm
  rw [Gate.resolve_keyless hg] at hw hs ⊢
  generalize g.formLimitsJam = x at *
  by_cases hj : x.jam.isSome = true
  · rw [if_pos hj] at hs
    cases hs
  · rw [if_neg hj] at hw hs ⊢
    by_cases hc : x.commandHold = true
    · rw [if_pos hc] at hw
      exfalso
      revert hw
      unfold Gate.underHold Gate.wantsShare
      cases x.state <;> simp [Gate.hold, Gate.stop, hc]
    · rw [if_neg hc] at hw hs ⊢
      cases hd : x.demand with
      | none =>
        rw [hd] at hw
        exfalso
        revert hw
        dsimp only
        unfold Gate.atRest Gate.wantsShare
        cases x.state <;> simp [Gate.hold, Gate.stop, hd]
      | some d =>
        rw [hd] at hs
        dsimp only at hs ⊢
        unfold Gate.underDemand at hs ⊢
        split
        · rename_i ht
          rw [if_pos ht] at hs
          cases d <;> cases hs
        · rename_i ht
          rw [if_neg ht] at hs
          dsimp only at hs ⊢
          cases hm : x.state.moves
          · split <;> rfl
          · rw [hm] at hs
            split at hs <;> cases d <;> cases hs

theorem Gate.demands_applyShare {p : GateProfile} (n : Nat) {g : Gate}
    (h : g.wantsShare = true → g.state = .held → g.holdCause = some .share) :
    (g.applyShare p n).motionDemand p = g.motionDemand p ∧ (g.applyShare p n).standingDemand p = g.standingDemand p := by
  unfold Gate.applyShare
  by_cases hw : g.wantsShare = true
  · rw [if_pos hw]
    have h' := h hw
    unfold Gate.wantsShare at hw
    simp only [Bool.and_eq_true, Option.isNone_iff_eq_none, Bool.or_eq_true, decide_eq_true_eq] at hw
    obtain ⟨⟨⟨⟨hk, -⟩, -⟩, hd⟩, hs⟩ := hw
    split
    · split
      · exact ⟨rfl, rfl⟩
      · rename_i hm
        have hheld : g.state = .held := hs.resolve_left hm
        cases hdir : g.dir with
        | none => exact ⟨rfl, rfl⟩
        | some d =>
          dsimp only
          unfold Gate.motionDemand Gate.standingDemand
          cases d <;> simp [Dir.moving, GateState.moves, hk, hheld, h' hheld, hd]
    · split
      · rename_i hm
        unfold Gate.motionDemand Gate.standingDemand
        have h0 : GateState.held.moves = false := rfl
        simp [Gate.hold, Gate.stop, hk, hm, hd, h0]
      · exact ⟨rfl, rfl⟩
  · rw [if_neg hw]
    exact ⟨rfl, rfl⟩

theorem Gate.demands_settleStall (p : GateProfile) (a g : Gate) :
    (Gate.settleStall a g).motionDemand p = g.motionDemand p ∧
    (Gate.settleStall a g).standingDemand p = g.standingDemand p := by
  unfold Gate.settleStall
  split <;> exact ⟨rfl, rfl⟩

theorem gateDemands_settled (b s : State) :
    (State.settleRunning b s).gate.motionDemand s.profile.gate =
      (State.settleDemands b s).gate.motionDemand s.profile.gate ∧
    (State.settleRunning b s).gate.standingDemand s.profile.gate =
      (State.settleDemands b s).gate.standingDemand s.profile.gate := by
  have hpr : (State.settleDemands b s).profile = s.profile := by
    have e := congrArg State.profile (kept_settleDemands b s)
    exact e
  rw [settleRunning_gate, settleShares_gate, hpr]
  split
  · rename_i hp
    obtain ⟨h1, h2⟩ := Gate.demands_settleStall s.profile.gate b.gate
      ((State.settleDemands b s).gate.applyShare s.profile.gate
        (State.settleShares b (State.settleDemands b s)).allot.shares.m)
    rw [h1, h2]
    refine Gate.demands_applyShare _ ?_
    have hps : s.formOrigins.updateSag.profile = s.profile := by
      unfold State.updateSag
      split <;> rfl
    obtain ⟨g, hr⟩ := resolveClosure_gate (s := s.formOrigins.updateSag) (by rw [hps]; exact hp)
    rw [settleDemands_gate, hr]
    exact Gate.holdCause_resolve
  · exact ⟨rfl, rfl⟩

theorem demands_settleRunning (b s : State) : (State.settleRunning b s).demandsFollow := by
  intro _
  have hpr : (State.settleRunning b s).profile = s.profile := settleRunning_profile b s
  have hpd : (State.settleDemands b s).profile = s.profile := by
    have e := congrArg State.profile (kept_settleDemands b s)
    exact e
  have ha := PumpAgree.settleRunning b s
  obtain ⟨g1, g2⟩ := gateDemands_settled b s
  have hl := lampsAgree_settled b s
  have hd : (State.settleDemands b s).demands =
      { t := min ((State.settleDemands b s).pumpStanding +
          (State.settleDemands b s).gate.standingDemand (State.settleDemands b s).profile.gate +
          (State.settleDemands b s).lampStanding) 255
        m := (State.settleDemands b s).gate.motionDemand (State.settleDemands b s).profile.gate
        p := (State.settleDemands b s).pumpingDemand
        l := (State.settleDemands b s).lightingDemand } := rfl
  have hls : (State.settleRunning b s).lampStanding = (State.settleDemands b s).lampStanding := by
    unfold State.lampStanding
    refine sumChannels_congr fun i => ?_
    have hasp : (State.settleRunning b s).lamps.aspect = (State.settleDemands b s).lamps.aspect := by
      rw [settleRunning_lamps]
    rw [hasp, hpr, hpd]
    exact hl.standing _ _ i _
  rw [settleRunning_demands, hd]
  refine ⟨?_, ?_, ?_, ?_⟩
  · rw [ha.pumpStanding, hls, hpr, g2, hpd]
  · rw [hpr, g1, hpd]
  · rw [ha.pumpingDemand]
    rfl
  · rw [hl.litDraw, target_settled, hpr, hpd]
    show State.lightingDemand _ = _
    unfold State.lightingDemand
    rw [hpd]

/-! ### Over every step -/

/-- A property of running states that only `quiet` items bear on, and that an event hands on to the state it settles, is kept by
every step. -/
theorem step_keeps_event {P : State → Prop} (hq : ∀ s t : State, t.quiet = s.quiet → P s → P t)
    (hn : ∀ t : State, t.node.state.running = false → P t)
    (hr : ∀ b u : State, P b → (b.node.state = u.node.state → SamePass b u) → u.node.state.running = true →
      P (State.settleRunning b u))
    {s t : State} (h : P s) (ht : step s = .next t) : P t := by
  rcases step_shape ht with k | k | ⟨b, u, hb, hk, hs⟩
  · exact hq _ _ k h
  · exact hn t (by rw [k]; rfl)
  · refine hq _ _ hk ?_
    by_cases hu : u.node.state.running = true
    · have e : State.settle b u = State.settleRunning b u := by
        unfold State.settle
        split
        · rename_i x; rw [x] at hu; cases hu
        · rename_i x; rw [x] at hu; cases hu
        · rfl
      rw [e]
      exact hr b u (hq _ _ hb h) hs hu
    · exact hn _ (by rw [settle_node]; simpa using hu)

/-- A property of running states that only `quiet` items bear on and that every settled state has is kept by every step. -/
theorem step_keeps {P : State → Prop} (hq : ∀ s t : State, t.quiet = s.quiet → P s → P t)
    (hn : ∀ t : State, t.node.state.running = false → P t) (hr : ∀ b u : State, P (State.settleRunning b u))
    {s t : State} (h : P s) (ht : step s = .next t) : P t :=
  step_keeps_event hq hn (fun b u _ _ _ => hr b u) h ht

end Sys2Proof.Machine
end

