-- ==== Sys2Proof/WellFormed.lean ====
section
/-! DEFINITION. The operands a command may carry: codes of the converters are 0 to 4095, the station strap has four
pins, the profile record has 96 bytes, a switch is read as OFF, HAND or AUTO, and a character on the line begins with a low start
bit. -/

namespace Sys2Proof

open Sys2Proof.Machine

/-- A converter code (00_scope.md section 5). -/
def codeOk (c : Nat) : Bool := decide (c ≤ 4095)

/-- The station strap is read from four pins (R185, section 11.7). -/
def StartPins.ok (p : StartPins) : Bool := decide (p.station ≤ 15)

/-- The profile is read as 96 bytes (R186), the station strap from four pins (R185). -/
def StartReads.ok (r : StartReads) : Bool := decide (r.station ≤ 15 ∧ r.record.length = 96)

/-- A character on the line begins with its start bit at the low level (R149, R194). -/
def startBitLow (w : Wire) : Bool := !w.getLsbD 0

/-- A character of another station is one the line carries (R194). -/
def LineChar.ok : LineChar → Bool
  | .own => true
  | .other _ w => startBitLow w

/-- Each reading of a sample is a converter code (R1). -/
def SampleReads.ok (r : SampleReads) : Bool := codeOk r.code

/-- Each reading of a lamp tick is a converter code (R133, R141). -/
def LampReads.ok (r : LampReads) : Bool := codeOk r.ambient && r.currents.toList.all codeOk

/-- Whether a command's operands lie within what the part can read. -/
def Instr.wellFormed : Instr → Bool
  | .powerOn p | .resetPinRelease p | .brownOutRecovery p => p.ok
  | .endOfStart r => r.ok
  | .sample r | .sensorFaultSet r | .sensorFaultClear r | .floatChange r | .calibrationComplete r => r.ok
  | .ownSagSet c | .ownSagClear c | .overcurrentTrip _ c | .dryrunTrip _ c | .gateStall c => codeOk c
  | .switchChange _ pos => decide (pos ≠ .unsettled)
  | .lineCharacter c => c.ok
  | .lampTick r | .lampFailed r | .lampShorted r => r.ok
  | .resetPinAssert | .brownOut | .frameClose | .recordStale _ | .recordGone _ | .lineSilenceExpiry
  | .supplySourceChange _ | .sagHoldEnd | .loopStep | .restTimerExpiry _ | .retryExpiry _ | .dryStageClear
  | .runMinute _ | .outsideFilterChange _ | .warnTimerExpiry | .clearanceTimerExpiry | .presenceClear
  | .maxClearExpiry | .reopenHoldExpiry | .limitChange _ _ | .keyTakeover _ | .keyRelease | .backoffEnd
  | .travelMaximum | .attemptStart | .retryStart | .collision _ _ | .attemptComplete
  | .reportTimerExpiry | .close _ | .reopen _ | .gateStop _ | .gateRelease _ | .pumpManual _ _ _ | .pumpAuto _ _
  | .lampManual _ _ _ | .lampAuto _ _ | .calibrate _ | .clear _ | .query _ _ | .dump _ | .dumpAndZero _ | .restart _
  | .listenTimerExpiry | .backupSupplyLoss => true

end Sys2Proof
end

