-- ==== Sys2Proof/Laws/PerInstr.lean ====
section
/-! SUPPORT. A statement about each constructor of Instr: its operands are well formed exactly where each reading is one the
part can make. -/

set_option Elab.async false

namespace Sys2Proof.Laws.Operands

open Sys2Proof Sys2Proof.Machine

/-- The bounds of the operands, written out (R1, R65, R133, R141, R149, R185, R186, R194). -/
def Bounds : Instr → Prop
  | .powerOn p | .resetPinRelease p | .brownOutRecovery p => p.station ≤ 15
  | .endOfStart r => r.station ≤ 15 ∧ r.record.length = 96
  | .lineCharacter (.other _ w) => w.getLsbD 0 = false
  | .sample r | .sensorFaultSet r | .sensorFaultClear r | .floatChange r | .calibrationComplete r => r.code ≤ 4095
  | .ownSagSet c | .ownSagClear c | .overcurrentTrip _ c | .dryrunTrip _ c | .gateStall c => c ≤ 4095
  | .switchChange _ pos => pos ≠ .unsettled
  | .lampTick r | .lampFailed r | .lampShorted r => r.ambient ≤ 4095 ∧ ∀ i, r.currents.get i ≤ 4095
  | _ => True

/-- A command is well formed exactly where its operands lie within their bounds. -/
def Statement (i : Instr) : Prop := i.wellFormed = true ↔ Bounds i

theorem lampReads_ok (r : LampReads) : r.ok = true ↔ r.ambient ≤ 4095 ∧ ∀ i, r.currents.get i ≤ 4095 := by
  rw [forall_channel]
  simp [LampReads.ok, codeOk, Eight.toList]
  exact fun _ => Iff.rfl

theorem powerOn (a0 : StartPins) : Statement (.powerOn a0) := by simp [Statement, Bounds, Instr.wellFormed, StartPins.ok]

theorem resetPinAssert : Statement .resetPinAssert := iff_of_true rfl trivial

theorem resetPinRelease (a0 : StartPins) : Statement (.resetPinRelease a0) := by simp [Statement, Bounds, Instr.wellFormed, StartPins.ok]

theorem brownOut : Statement .brownOut := iff_of_true rfl trivial

theorem brownOutRecovery (a0 : StartPins) : Statement (.brownOutRecovery a0) := by simp [Statement, Bounds, Instr.wellFormed, StartPins.ok]

theorem endOfStart (a0 : StartReads) : Statement (.endOfStart a0) := by simp [Statement, Bounds, Instr.wellFormed, StartReads.ok]

theorem sample (a0 : SampleReads) : Statement (.sample a0) := by simp [Statement, Bounds, Instr.wellFormed, SampleReads.ok, codeOk]

theorem sensorFaultSet (a0 : SampleReads) : Statement (.sensorFaultSet a0) := by simp [Statement, Bounds, Instr.wellFormed, SampleReads.ok, codeOk]

theorem sensorFaultClear (a0 : SampleReads) : Statement (.sensorFaultClear a0) := by simp [Statement, Bounds, Instr.wellFormed, SampleReads.ok, codeOk]

theorem floatChange (a0 : SampleReads) : Statement (.floatChange a0) := by simp [Statement, Bounds, Instr.wellFormed, SampleReads.ok, codeOk]

theorem calibrationComplete (a0 : SampleReads) : Statement (.calibrationComplete a0) := by simp [Statement, Bounds, Instr.wellFormed, SampleReads.ok, codeOk]

theorem frameClose : Statement .frameClose := iff_of_true rfl trivial

theorem recordStale (a0 : Fin 15) : Statement (.recordStale a0) := iff_of_true rfl trivial

theorem recordGone (a0 : Fin 15) : Statement (.recordGone a0) := iff_of_true rfl trivial

theorem lineSilenceExpiry : Statement .lineSilenceExpiry := iff_of_true rfl trivial

theorem supplySourceChange (a0 : Supply) : Statement (.supplySourceChange a0) := iff_of_true rfl trivial

theorem ownSagSet (a0 : Nat) : Statement (.ownSagSet a0) := by simp [Statement, Bounds, Instr.wellFormed, codeOk]

theorem ownSagClear (a0 : Nat) : Statement (.ownSagClear a0) := by simp [Statement, Bounds, Instr.wellFormed, codeOk]

theorem sagHoldEnd : Statement .sagHoldEnd := iff_of_true rfl trivial

theorem loopStep : Statement .loopStep := iff_of_true rfl trivial

theorem switchChange (a0 : PumpNo) (a1 : SwitchPos) : Statement (.switchChange a0 a1) := by simp [Statement, Bounds, Instr.wellFormed]

theorem restTimerExpiry (a0 : PumpNo) : Statement (.restTimerExpiry a0) := iff_of_true rfl trivial

theorem overcurrentTrip (a0 : PumpNo) (a1 : Nat) : Statement (.overcurrentTrip a0 a1) := by simp [Statement, Bounds, Instr.wellFormed, codeOk]

theorem dryrunTrip (a0 : PumpNo) (a1 : Nat) : Statement (.dryrunTrip a0 a1) := by simp [Statement, Bounds, Instr.wellFormed, codeOk]

theorem retryExpiry (a0 : PumpNo) : Statement (.retryExpiry a0) := iff_of_true rfl trivial

theorem dryStageClear : Statement .dryStageClear := iff_of_true rfl trivial

theorem runMinute (a0 : PumpNo) : Statement (.runMinute a0) := iff_of_true rfl trivial

theorem outsideFilterChange (a0 : Bool) : Statement (.outsideFilterChange a0) := iff_of_true rfl trivial

theorem warnTimerExpiry : Statement .warnTimerExpiry := iff_of_true rfl trivial

theorem clearanceTimerExpiry : Statement .clearanceTimerExpiry := iff_of_true rfl trivial

theorem presenceClear : Statement .presenceClear := iff_of_true rfl trivial

theorem maxClearExpiry : Statement .maxClearExpiry := iff_of_true rfl trivial

theorem reopenHoldExpiry : Statement .reopenHoldExpiry := iff_of_true rfl trivial

theorem limitChange (a0 : LimitSwitch) (a1 : Bool) : Statement (.limitChange a0 a1) := iff_of_true rfl trivial

theorem keyTakeover (a0 : Dir) : Statement (.keyTakeover a0) := iff_of_true rfl trivial

theorem keyRelease : Statement .keyRelease := iff_of_true rfl trivial

theorem gateStall (a0 : Nat) : Statement (.gateStall a0) := by simp [Statement, Bounds, Instr.wellFormed, codeOk]

theorem backoffEnd : Statement .backoffEnd := iff_of_true rfl trivial

theorem travelMaximum : Statement .travelMaximum := iff_of_true rfl trivial

theorem lampTick (a0 : LampReads) : Statement (.lampTick a0) := lampReads_ok a0

theorem lampFailed (a0 : LampReads) : Statement (.lampFailed a0) := lampReads_ok a0

theorem lampShorted (a0 : LampReads) : Statement (.lampShorted a0) := lampReads_ok a0

theorem lineCharacter (a0 : LineChar) : Statement (.lineCharacter a0) := by
  cases a0 <;> simp [Statement, Bounds, Instr.wellFormed, LineChar.ok, startBitLow]

theorem attemptStart : Statement .attemptStart := iff_of_true rfl trivial

theorem retryStart : Statement .retryStart := iff_of_true rfl trivial

theorem collision (a0 : Byte) (a1 : Bool) : Statement (.collision a0 a1) := iff_of_true rfl trivial

theorem attemptComplete : Statement .attemptComplete := iff_of_true rfl trivial

theorem reportTimerExpiry : Statement .reportTimerExpiry := iff_of_true rfl trivial

theorem close (a0 : Addressing) : Statement (.close a0) := iff_of_true rfl trivial

theorem reopen (a0 : Addressing) : Statement (.reopen a0) := iff_of_true rfl trivial

theorem gateStop (a0 : Addressing) : Statement (.gateStop a0) := iff_of_true rfl trivial

theorem gateRelease (a0 : Addressing) : Statement (.gateRelease a0) := iff_of_true rfl trivial

theorem pumpManual (a0 : Addressing) (a1 a2 : Byte) : Statement (.pumpManual a0 a1 a2) := iff_of_true rfl trivial

theorem pumpAuto (a0 : Addressing) (a1 : Byte) : Statement (.pumpAuto a0 a1) := iff_of_true rfl trivial

theorem lampManual (a0 : Addressing) (a1 a2 : Byte) : Statement (.lampManual a0 a1 a2) := iff_of_true rfl trivial

theorem lampAuto (a0 : Addressing) (a1 : Byte) : Statement (.lampAuto a0 a1) := iff_of_true rfl trivial

theorem calibrate (a0 : Addressing) : Statement (.calibrate a0) := iff_of_true rfl trivial

theorem clear (a0 : Addressing) : Statement (.clear a0) := iff_of_true rfl trivial

theorem query (a0 : Addressing) (a1 : Byte) : Statement (.query a0 a1) := iff_of_true rfl trivial

theorem dump (a0 : Addressing) : Statement (.dump a0) := iff_of_true rfl trivial

theorem dumpAndZero (a0 : Addressing) : Statement (.dumpAndZero a0) := iff_of_true rfl trivial

theorem restart (a0 : Addressing) : Statement (.restart a0) := iff_of_true rfl trivial

theorem listenTimerExpiry : Statement .listenTimerExpiry := iff_of_true rfl trivial

theorem backupSupplyLoss : Statement .backupSupplyLoss := iff_of_true rfl trivial

end Sys2Proof.Laws.Operands
end

