-- ==== Sys2Proof/Tests/Slice0.lean ====
section
/-! SUPPORT. Tests: ill-formed operands are refused by the checks of WellFormed; the manual's worked figures; and for each
statement of Obligations.lean with hypotheses, states and operands that meet them, clause by clause. -/

set_option Elab.async false

set_option maxRecDepth 100000

namespace Sys2Proof.Tests

open Sys2Proof Sys2Proof.Machine

/-! ### Ill-formed operands -/

theorem test_strap_of_16_refused : (Instr.powerOn ⟨16, false, false⟩).wellFormed = false := by decide
theorem test_strap_of_15_taken : (Instr.brownOutRecovery ⟨15, false, false⟩).wellFormed = true := by decide
theorem test_record_of_95_refused :
    (Instr.endOfStart ⟨1, false, List.replicate 95 0, false, false, false⟩).wellFormed = false := by decide
theorem test_strap_of_16_at_end_of_start_refused :
    (Instr.endOfStart ⟨16, false, List.replicate 96 0, false, false, false⟩).wellFormed = false := by decide
theorem test_end_of_start_taken :
    (Instr.endOfStart ⟨15, false, List.replicate 96 0, false, false, false⟩).wellFormed = true := by decide
theorem test_high_start_bit_refused : (Instr.lineCharacter (.other 0 0x201#10)).wellFormed = false := by decide
theorem test_character_taken : (Instr.lineCharacter (.other 0 (wireOf 0x5A#8))).wellFormed = true := by decide
theorem test_code_4096_refused : (Instr.sample ⟨4096, false, false⟩).wellFormed = false := by decide
theorem test_code_4095_taken : (Instr.sample ⟨4095, false, false⟩).wellFormed = true := by decide
theorem test_feeder_code_refused : (Instr.ownSagSet 4096).wellFormed = false := by decide
theorem test_motor_code_refused : (Instr.gateStall 5000).wellFormed = false := by decide
theorem test_unsettled_switch_refused : (Instr.switchChange .one .unsettled).wellFormed = false := by decide
theorem test_ambient_refused : (Instr.lampTick ⟨4096, Eight.replicate 0⟩).wellFormed = false := by decide
theorem test_lamp_current_refused : (Instr.lampShorted ⟨0, ⟨0, 0, 0, 0, 0, 0, 0, 4096⟩⟩).wellFormed = false := by decide

/-! ### The states of the tests -/

/-- A profile record that passes R187: a gate, two pumps, signals on channels 1 to 3, guidance on 4 and 5, carriageway on
6 and 7. -/
def recordBytes : List Byte :=
  [5, 25, 16, 20, 25, 100, 10, 50, 2, 143, 12, 204, 80, 30, 30, 4] ++
  [16, 32, 52, 2, 20, 0, 50, 0, 200, 10, 7, 110, 35, 80, 150, 20] ++
  [5, 12, 3, 20, 110, 35, 80, 150, 20, 5, 12, 3, 20, 30, 60, 100] ++
  [26, 20, 12, 24, 60, 50, 100, 200, 80, 60, 50, 40, 30, 100, 10, 200] ++
  [5, 5, 3, 3, 3, 2, 5, 127, 64, 5, 159, 64, 5, 191, 64, 1] ++
  [65, 44, 1, 76, 128, 10, 40, 152, 10, 41, 96, 0, 0, 0, 185, 84]

/-- Its settings. -/
def prof : Profile := profileOf recordBytes

/-- A node in ACTIVE with that profile and a WET sump. -/
def live : State :=
  { State.reset with
    node := ⟨.active, 0, 0, false, false, false, true, false, 0⟩
    profile := prof
    level := { LevelMonitor.atStart 655 with
      ring := [1496, 1498, 1500, 1502, 1501, 1499, 1503, 1505], level := 1289, dry := ⟨.wet, some true, 3⟩, stage := .wet }
    pumps := { Pumps.atStart with
      p1 := { PumpRec.atStart with switch := ⟨.auto, some .auto, 3⟩, rest := .done }
      p2 := { PumpRec.atStart with switch := ⟨.auto, some .auto, 3⟩, rest := .done } }
    closure := { Closure.atStart with phase := .opened }
    gate := { Gate.atStart with state := .opened, openLimit := ⟨true, 0⟩, retries := 3 }
    lamps := Lamps.atEndOfStart prof.lamps false (Eight.replicate .ok) }

/-- The same, with all that follows from its items come about. -/
def calm : State := State.endEvent live live

/-- The same written out, with the line idle and the shares sent. -/
def restful : State :=
  { live with
    level := { live.level with settle := some 0 }
    pumps := { live.pumps with p1 := { live.pumps.p1 with state := .idle }, p2 := { live.pumps.p2 with state := .idle } }
    lamps := { live.lamps with
      recs := Eight.ofFn fun i =>
        { live.lamps.recs.get i with output := (⟨0, 0, 100, 100, 100, 80, 80, 0⟩ : Eight Nat).get i }
      common := 80, aspect := .green }
    demands := ⟨13, 0, 0, 10⟩
    allot := { live.allot with usable := 480, shares := ⟨13, 0, 0, 10⟩ }
    line := { live.line with lastShares := ⟨13, 0, 0, 10⟩ } }

/-- The same with pump 1 running at want 60, as a LOOP_STEP could leave it. -/
def pumping : State :=
  { restful with
    level := { restful.level with settle := none }
    demands := ⟨13, 0, 66, 10⟩
    allot := { restful.allot with shares := ⟨13, 0, 66, 10⟩ }
    pumps := { restful.pumps with
      want := 60
      p1 := { restful.pumps.p1 with state := .running, want := 60, ceiling := 60, duty := 60 } } }

/-- The same in another node state. -/
def inState (n : NodeState) (s : State) : State := { s with node := { s.node with state := n } }

/-- The same in another phase, the gate in a state between its limits or at one. -/
def inPhase (p : Phase) (g : GateState) (o c : Bool) (s : State) : State :=
  { s with
    closure := { s.closure with phase := p }
    gate := { s.gate with state := g, openLimit := ⟨o, 0⟩, closedLimit := ⟨c, 0⟩ } }

/-- The same with its line changed. -/
def onLine (f : Line → Line) (s : State) : State := { s with line := f s.line }

/-- The same with its gate changed. -/
def atGate (f : Gate → Gate) (s : State) : State := { s with gate := f s.gate }

/-- The same with pump 1 changed. -/
def atPump (f : PumpRec → PumpRec) (s : State) : State := { s with pumps := { s.pumps with p1 := f s.pumps.p1 } }

/-- The same with its level monitor changed. -/
def atLevel (f : LevelMonitor → LevelMonitor) (s : State) : State := { s with level := f s.level }

/-- The gate CLOSING in SEALING, under its demand. -/
def sealing : State :=
  atGate (fun g => { g with dir := some .toClose, demand := some .toClose }) (inPhase .sealing .closing false false live)

/-- The gate OPENING in REOPENING, under its demand. -/
def reopening : State :=
  atGate (fun g => { g with dir := some .toOpen, demand := some .toOpen }) (inPhase .reopening .opening false false live)

/-- The gate CLOSING in SEALING with its whole share, as an event leaves it. -/
def driving : State :=
  { sealing with
    closure := { sealing.closure with own := ⟨false, false, true⟩ }
    allot := { sealing.allot with shares := ⟨0, 30, 0, 0⟩ } }

/-- A peer's record in ACTIVE that carries the sag flag, with sag held. -/
def sagging : State :=
  { live with
    picture := { live.picture with
      records := live.picture.records.set 5
        { StationRecord.atStart with
          presence := .fresh, report := { StationRecord.atStart.report with flags := ⟨false, false, true, false, false, false⟩ } } }
    allot := { live.allot with sagHold := some 0 } }

/-- What a command leads to. -/
def after (c : Instr) (s : State) : State :=
  match exec c s with
  | .next t => t
  | .fault _ | .refused _ => s

/-- A state with one command waiting. -/
def queue (c : Instr) (s : State) : State := { s with pending := [c] }

/-- What a step with that command leads to. -/
def stepped (c : Instr) (s : State) : State :=
  match step (queue c s) with
  | .next t => t
  | .fault _ | .refused _ => s

/-! ### The manual's worked figures -/

theorem test_worked_conversion :
    convertedLevel prof 655 live.level.ring = 1289 ∧
    (after (.sample ⟨1510, true, false⟩) live).level.level = 1292 ∧
    levelOf prof 655 600 = 0 ∧ levelOf prof 655 3300 = 4000 := by decide +kernel

/-- The four nodes of section 3.7 on mains, each put first in turn. -/
def claims37 : List Claim := [⟨⟨6, 30, 100, 40⟩, .wet⟩, ⟨⟨4, 0, 240, 20⟩, .flood⟩, ⟨⟨4, 0, 220, 20⟩, .flood⟩, ⟨⟨3, 0, 0, 40⟩, .dry⟩]

theorem test_worked_allotment :
    (claims37.map fun c => (serveAll 480 c (claims37.erase c)).shares) =
      [⟨6, 30, 0, 0⟩, ⟨4, 0, 225, 0⟩, ⟨4, 0, 207, 0⟩, ⟨3, 0, 0, 0⟩] ∧
    (claims37.map fun c => (serveAll 300 c (claims37.erase c)).shares) =
      [⟨6, 30, 0, 0⟩, ⟨4, 0, 132, 0⟩, ⟨4, 0, 121, 0⟩, ⟨3, 0, 0, 0⟩] := by decide +kernel

theorem test_worked_ceilings :
    ceilingOf 120 105 = 87 ∧ ceilingOf 110 97 = 88 ∧ ceilingOf 110 40 = 36 ∧ ceilingOf 110 30 = 27 ∧ drawAt 110 70 = 77 := by decide

theorem test_worked_backoff : backoffK 2 1 = 10 ∧ backoffK 8 1 = 4 ∧ backoffK 2 2 = 15 ∧ backoffSilence 4 = 20 * 160 := by decide

theorem test_record_accepted : recordOk recordBytes = true ∧ prof.span = 4000 ∧ prof.pump2.ratedDraw = 110 ∧
    prof.gate.stallRetries = 2 ∧ (prof.lamps.get 6).mountHeight = 2400 := by decide +kernel

theorem test_end_of_start :
    let t := after (.endOfStart ⟨1, false, recordBytes, true, false, false⟩) State.reset
    t.node.state = .listen ∧ t.gate.state = .opened ∧ t.closure.phase = .opened ∧ t.lamps.aspect = .green ∧
    t.allot.usable = 200 ∧ t.demands.t = 13 ∧ t.line.flight = some ⟨.status, none, 0⟩ := by decide +kernel

/-- R194: the ten levels of the character B6h, from the start bit; and what they read back as. -/
theorem test_levels_of_a_character :
    (List.range 10).map (fun k => (wireOf 0xB6#8).getLsbD k) =
      [false, false, true, true, false, true, true, false, true, true] ∧
    wireByte (wireOf 0xB6#8) = 0xB6#8 ∧ wireStop (wireOf 0xB6#8) = true ∧ wireStop 0x1FE#10 = false := by decide

/-- R65, R113: reads on the grid of 100 ms, 30 ms before the next of them. -/
theorem test_reads_on_the_grid :
    readsIn (ms 100) (ms 70) (ms 29) = 0 ∧ readsIn (ms 100) (ms 70) (ms 30) = 1 ∧ timeToReads (ms 100) 3 (ms 70) = ms 230 ∧
    (SwitchInput.elapse .hand (ms 70) (ms 130) ⟨.auto, some .auto, 3⟩) = ⟨.auto, some .hand, 2⟩ ∧
    (SwitchInput.elapse .auto (ms 70) (ms 30) ⟨.auto, some .hand, 2⟩) = ⟨.auto, some .auto, 1⟩ ∧
    readRun (ms 10) (ms 200) (ms 4) false true 0 (ms 16) = ms 10 := by decide

/-! ### Hypotheses met: the machine and the starts -/

theorem witness_StepRunsFrontCommand : live.pending = [] := rfl

theorem idle_tableHolds {pp : PumpProfile} {sag : Bool} {r : PumpRec}
    (h : (pp.present = true ∧ r.fault = .none ∧ r.switch.debounced = .auto) ∧
      r.want = 0 ∧ r.state = .idle ∧ r.cause = .none ∧ r.duty = 0) : r.tableHolds pp sag := by
  obtain ⟨⟨h1, h2, h3⟩, h⟩ := h
  unfold PumpRec.tableHolds
  rw [h1, h2, h3]
  exact Or.inl h

/-- The premises of the statements StepKeeps: a running state that has each property, and its step. -/
theorem witness_StepKeeps :
    (calm.node.state.running = true ∧ calm.countersInRange ∧ calm.queueInRange ∧ calm.retentionFollows ∧ calm.wantedIsClosing ∧
      calm.motorHasShare ∧ calm.drawWithinShare ∧ calm.greenOnlyOpen ∧ calm.sharesWithin) ∧
    (calm.originsFollow ∧ calm.gateDemandFollows ∧ calm.wantsFollow ∧ calm.pumpsFollow ∧ calm.demandsFollow ∧
      calm.lampsFollow ∧ calm.usableFollows ∧ calm.sharesFollow) ∧ ∃ t, step calm = .next t := by
  refine ⟨⟨by decide +kernel, ?_, ?_, ?_, ?_, ?_, ?_, ?_, ?_⟩, ⟨?_, ?_, ?_, ?_, ?_, ?_, ?_, ?_⟩, _, rfl⟩
  · unfold State.countersInRange Counters.bounded; decide +kernel
  · unfold State.queueInRange; decide +kernel
  · unfold State.retentionFollows; decide +kernel
  · unfold State.wantedIsClosing; decide +kernel
  · unfold State.motorHasShare; decide +kernel
  · unfold State.drawWithinShare; decide +kernel
  · unfold State.greenOnlyOpen; decide +kernel
  · unfold State.sharesWithin; decide +kernel
  · unfold State.originsFollow; decide +kernel
  · unfold State.gateDemandFollows; decide +kernel
  · unfold State.wantsFollow State.canLead; decide +kernel
  · intro _
    exact ⟨idle_tableHolds (by decide +kernel), idle_tableHolds (by decide +kernel), by decide +kernel, by decide +kernel⟩
  · unfold State.demandsFollow; decide +kernel
  · unfold State.lampsFollow; decide +kernel
  · unfold State.usableFollows; decide +kernel
  · unfold State.sharesFollow; decide +kernel

/-- What the clauses of splitIs, partsAre, lampPartsAre and lampsAre ask, each met somewhere (R67, R71, R73, R85, R112, R134
to R140). -/
theorem witness_written_out_items :
    (calm.pooled .one = true ∧ calm.pooled .two = true ∧ calm.pumps.lead = .one) ∧
    (let s := atPump (fun q => { q with remote := true, manualDuty := 10 }) live
     (s.pumps.get .one).remote = true ∧ (s.pumps.get .one).fault = .none ∧ s.level.dry.debounced = .wet ∧
     s.wantOf .one = max 10 prof.pump1.minDuty ∧ s.pooled .one = false ∧ s.wantMax = 100) ∧
    (let s := atPump (fun q => { q with fault := .tripped .dryrun, retry := some 0 }) live
     s.pooled .one = true ∧ s.pumps.p1.pumpingPart prof.pump1 = 0) ∧
    (sealing.gate.motionDemand prof.gate = prof.gate.ratedDraw ∧ live.gate.motionDemand prof.gate = 0) ∧
    (calm.lamps.aspect = .green ∧ (calm.lamps.recs.get 2).output = 100 ∧
      (calm.lamps.recs.get 5).inLitSet (prof.lamps.get 5) = true ∧ (prof.lamps.get 3).cls = .guidance) ∧
    submergedAt prof .submerged 4000 (prof.lamps.get 6) = true ∧
    (Pattern.lit ⟨0, 3⟩ 0 = false ∧ Pattern.lit ⟨0, 0⟩ 0 = true ∧ Pattern.lit ⟨3, 2⟩ 3 = false) := by decide +kernel

/-- A pump that starts in a step at the end of its rest time. -/
theorem witness_startsAllowed :
    let s := State.endEvent live
      { live with pumps := { live.pumps with want := 60, p1 := { live.pumps.p1 with rest := .counting 0 } } }
    let t := after (.restTimerExpiry .one) s
    t.node.state.running = true ∧ (s.pumps.get .one).duty = 0 ∧ 0 < (t.pumps.get .one).duty := by decide +kernel

/-- R157: a change of phase is reported; a tick that changes nothing is not. R154: a REPLY that finds the line busy defers. -/
theorem witness_StepKeepsQueueInRange :
    (let t := stepped (.close .broadcast) restful
     restful.node.state ≠ .start ∧ t.node.state.transmits = true ∧ restful.reportChanges t ∧ t.line.reportTimer = 0 ∧
     t.line.flight = some ⟨.status, none, 0⟩) ∧
    (let t := stepped .loopStep restful
     t.allot.shares ≠ restful.allot.shares ∧ t.sharesApart ∧ t.line.flight = some ⟨.status, none, 0⟩) ∧
    (let t := stepped (.runMinute .one) restful
     ¬ restful.reportChanges t ∧ ¬ t.sharesApart ∧
     (queue (.runMinute .one) restful).takes (fun i => i matches .reportTimerExpiry) = false) ∧
    (let s := onLine (fun l => { l with silence := 319, lastChar := .other }) restful
     (stepped (.query .addressed 0) s).counters.deferrals = s.counters.deferrals + 1 ∧
     ¬ State.mayTake (queue (.query .addressed 0) s) .dumpAndZero) := by
  unfold State.reportChanges State.sharesApart State.mayTake
  refine ⟨by decide +kernel, by decide +kernel, by decide +kernel, by decide +kernel⟩

/-- R57, R157: a pass that changes no share requests a STATUS while a share stands 10 LU from the last-sent one. R155, R156: one
drop for a marker, and two where a REPLY follows it. -/
theorem witness_reports_and_drops :
    (let s := onLine (fun l => { l with lastShares := ⟨13, 0, 0, 0⟩ }) restful
     let t := stepped (.supplySourceChange .generator) s
     s.passRuns t ∧ ¬ s.reportChanges t ∧ t.allot.shares = s.allot.shares ∧ t.sharesApart ∧
     t.line.flight = some ⟨.status, none, 0⟩) ∧
    (let s := onLine (fun l => { l with
          flight := some ⟨.status, none, 0⟩, access := .defer
          waiting := [.reply [1], .reply [2], .reply [3], .reply [4]] }) restful
     (stepped (.close .broadcast) s).counters.queueDrops = s.counters.queueDrops + 1 ∧
     (stepped (.close .addressed) s).counters.queueDrops = s.counters.queueDrops + 2 ∧
     (queue (.close .addressed) s).takes Instr.mayReply = true ∧
     .status ∈ (stepped (.close .addressed) s).line.waiting) := by
  unfold State.passRuns State.reportChanges State.sharesApart
  refine ⟨by decide +kernel, by decide +kernel⟩

/-- R94, R95, R98, R101: the phase moves, and BLOCKED set and cleared. -/
theorem witness_StepKeepsWantedClosing :
    (calm.originsFollow ∧ calm.staysRunning (stepped (.close .broadcast) calm) ∧
      calm.closure.phase = .opened ∧ (stepped (.close .broadcast) calm).closure.phase = .warning) ∧
    (let s := inPhase .warning .opened true false live
     (queue .warnTimerExpiry s).takes (fun i => i matches .warnTimerExpiry) = true ∧
     (stepped .warnTimerExpiry s).closure.phase = .stopping) ∧
    (let s := inPhase .clearing .opened true false live
     (stepped .maxClearExpiry s).closure.blocked = true ∧ s.closure.phase = .clearing) ∧
    (let s := { reopening with closure := { reopening.closure with blocked := true } }
     let t := stepped (.limitChange .openLimit true) s
     t.closure.phase = .opened ∧ t.closure.blocked = false) := by
  unfold State.originsFollow State.staysRunning
  decide +kernel

set_option synthInstance.maxSize 4096 in
set_option synthInstance.maxHeartbeats 400000 in
/-- R95, R99, R101, R102: the phases as the union and the gate leave them. -/
theorem witness_closureFollows :
    calm.closureFollows ∧ driving.closureFollows ∧
    (let s := { inPhase .sealed .closed false true live with
        closure := { Closure.atStart with phase := .sealed, reopenHold := some 0 } }
     s.closureFollows ∧ s.originsFollow ∧ s.wanted = false) ∧
    (stepped (.close .broadcast) restful).closureFollows ∧ reopening.closureFollows := by
  unfold State.closureFollows State.originsFollow
  decide +kernel

theorem forall_dir {P : Dir → Prop} : (∀ d, P d) ↔ P .toClose ∧ P .toOpen :=
  ⟨fun h => ⟨h _, h _⟩, fun h d => by cases d; exact h.1; exact h.2⟩

set_option synthInstance.maxSize 4096 in
set_option synthInstance.maxHeartbeats 400000 in
/-- R114, R115, R118, R129: a gate at rest, driven, held for want of share, under the command hold, under the key and in
FALLBACK. -/
theorem witness_gateFollows :
    calm.gateFollows ∧ driving.gateFollows ∧ (stepped (.gateStop .broadcast) driving).gateFollows ∧
    (stepped .travelMaximum driving).gateFollows ∧ (stepped (.keyTakeover .toOpen) driving).gateFollows ∧
    (inState .fallback live).gateFollows ∧
    ((stepped (.gateStop .broadcast) driving).gate.state = .held ∧ (stepped .travelMaximum driving).gate.state = .jammed ∧
      (stepped (.keyTakeover .toOpen) driving).gate.keyDrive = some .toOpen) := by
  unfold State.gateFollows Gate.tableHolds Gate.underKeyIs Gate.underDemandIs
  simp only [forall_dir]
  refine ⟨?_, ?_, ?_, ?_, ?_, ?_, ?_⟩ <;> decide +kernel

/-- R36, R47: sag seen from a peer in ACTIVE, and a timer that goes on when it is no longer seen. -/
theorem witness_sagFollows :
    (sagging.sagSeen = true ∧ sagging.sagFollows) ∧
    (let t := stepped (.recordGone 5) { sagging with picture := { sagging.picture with
        records := sagging.picture.records.set 5 { sagging.picture.records.get 5 with presence := .stale } } }
     t.sagSeen = false ∧ t.allot.sagHold.isSome = true) ∧
    ((inState .fallback live).allot.sagHold = none ∧ (inState .fallback live).sagFollows) := by
  unfold State.sagFollows
  decide +kernel

/-- R91: steps with and without CLOSE and REOPEN, by their rows and by a frame. -/
theorem witness_StepKeepsOriginsFollow :
    (¬ State.mayTake (queue .loopStep calm) .close ∧ ¬ State.mayTake (queue .loopStep calm) .reopen ∧
      calm.staysRunning (stepped .loopStep calm)) ∧
    State.mayTake (queue (.close .addressed) calm) .close ∧
    State.mayTake
      (queue .frameClose (onLine (fun l => { l with rx := some ⟨frameOf kindCommand 0 255 0 [1], 9, false⟩ }) calm)) .close ∧
    ((inState .fallback live).node.state = .fallback ∧ (inState .fallback live).closure.own.command = false) := by
  unfold State.mayTake State.staysRunning
  decide +kernel

/-- R121 to R123, R127, R129: a jam set, kept and released. -/
theorem witness_StepKeepsGateDemand :
    (inState .fallback live).fallbackJam ∧
    (let s := atGate (fun g => { g with retries := 0 }) sealing
     let t := stepped (.gateStall 1601) s
     s.staysRunning t ∧ s.gate.jam = none ∧ t.gate.jam = some .stall) ∧
    (let s := atGate (fun g => { g with jam := some .stall, state := .jammed }) live
     (stepped .loopStep s).gate.jam = some .stall ∧ (stepped (.clear .broadcast) s).gate.jam = none) := by
  unfold State.fallbackJam State.staysRunning
  decide +kernel

/-- R117, R120: a new motion reloads the retries and starts the travel anew; a closure counted, and none without a motion. -/
theorem witness_retries_and_closures :
    driving.gateDemandFollows ∧
    (let s := { reopening with gate := { reopening.gate with retries := 0, travel := 7 } }
     let t := stepped (.close .broadcast) s
     s.staysRunning t ∧ s.motionBegins t .toClose ∧ t.gate.retries = 2 ∧ t.gate.travel = 0) ∧
    (let t := stepped (.limitChange .closedLimit true) driving
     driving.staysRunning t ∧ t.gate.state = .closed ∧ driving.gate.state = .closing ∧ driving.gate.keyDrive = none ∧
     t.gate.keyDrive = none ∧ t.counters.gateClosures = driving.counters.gateClosures + 1) ∧
    (let t := stepped (.runMinute .one) driving
     ¬ driving.motionBegins t .toClose ∧ ¬ driving.motionBegins t .toOpen ∧
     (queue (.runMinute .one) driving).takes (fun i => i matches .limitChange _ _ | .keyTakeover _ | .gateStall _) = false ∧
     ¬ State.mayTake (queue (.runMinute .one) driving) .clear ∧ t.counters.gateClosures = driving.counters.gateClosures) := by
  unfold State.gateDemandFollows State.staysRunning State.motionBegins State.mayTake
  decide +kernel

/-- R70, R72: W kept and cut, the lead swapped and yielded. -/
theorem witness_StepKeepsWants :
    pumping.wantsFollow ∧
    (let t := stepped (.runMinute .one) pumping
     pumping.staysRunning t ∧ (queue (.runMinute .one) pumping).takes (fun i => i matches .loopStep) = false ∧
     t.pumps.want = 60 ∧ t.pumps.lead = pumping.pumps.lead) ∧
    (let t := stepped (.sample ⟨1500, false, false⟩)
        (atLevel (fun m => { m with dry := ⟨.wet, some false, 2⟩, ring := [], level := 65535 }) pumping)
     t.level.dry.debounced ≠ .wet ∧ t.pumps.want = 0 ∧ t.pumps.lead = pumping.pumps.lead.other) ∧
    (let t := stepped (.switchChange .one .hand) pumping
     pumping.pumps.lead = .one ∧ ¬ t.canLead .one ∧ t.canLead .two ∧ t.pumps.lead = .two) := by
  unfold State.wantsFollow State.canLead State.staysRunning
  decide +kernel

/-- R14 to R16, R63, R86: a start and a stop handed on, and a pump that runs on. -/
theorem witness_StepKeepsPumpTable :
    (let s := { pumping with pumps := { pumping.pumps with p1 := { restful.pumps.p1 with rest := .counting 0 } } }
     let t := stepped (.restTimerExpiry .one) s
     s.pumps.p1.duty = 0 ∧ 0 < t.pumps.p1.duty ∧ t.level.settle = none ∧ t.level.armed = true ∧
     t.counters.pump1Starts = s.counters.pump1Starts + 1) ∧
    (let s := { pumping with pumps := { pumping.pumps with p2 := { pumping.pumps.p2 with switch := ⟨.off, some .off, 3⟩ } } }
     let t := stepped (.overcurrentTrip .one 4095) s
     0 < s.pumps.p1.duty ∧ t.pumps.p1.duty = 0 ∧ t.pumps.p2.duty = 0 ∧ t.level.settle = some 0) ∧
    (let t := stepped (.runMinute .one) pumping
     pumping.pumps.p1.state = .running ∧ 0 < pumping.pumps.p1.duty ∧ t.canLead .one ∧ 0 < t.pumps.p1.want ∧
     t.profile.pump1.minDuty ≤ t.pumps.p1.ceiling ∧ t.pumps.p1.state = .running ∧
     t.allot.sagHeld = pumping.allot.sagHeld) ∧
    (queue (.runMinute .one) pumping).takes Instr.isSample = false ∧
    ¬ State.mayTake (queue (.runMinute .one) pumping) .calibrate := by
  unfold State.canLead State.mayTake
  decide +kernel

/-- R139: the amber counter restarts with the aspect, and stands while it flashes on. -/
theorem witness_StepKeepsLamps :
    (let s := { calm with lamps := { calm.lamps with amberCounter := 3 } }
     let t := stepped (.close .broadcast) s
     s.staysRunning t ∧ t.lamps.aspect ≠ s.lamps.aspect ∧ t.lamps.amberCounter = 0) ∧
    (let s := { after (.close .broadcast) calm with lamps := { (after (.close .broadcast) calm).lamps with amberCounter := 3 } }
     let t := stepped .loopStep s
     t.lamps.aspect = s.lamps.aspect ∧ flashing (amberPattern s.profile s.lamps.aspect) = true ∧
     (queue .loopStep s).takes Instr.isTick = false ∧ t.lamps.amberCounter = 3) := by
  unfold State.staysRunning
  decide +kernel

/-- A power supply that has fallen, with and without the RESET pin held. -/
def down (held backup : Bool) : State :=
  { State.reset with pins := { Pins.reset with mainSupply := false, resetHeld := held, backup := backup } }

theorem witness_StartCommandsBeginStart :
    (15 ≤ 15 ∧ State.reset.pins.resetHeld = false ∧ State.reset.pins.mainSupply = true ∧ State.reset.pins.backup = false) ∧
    ((down false true).pins.resetHeld = false ∧ (down false true).pins.mainSupply = false) ∧
    ((after .resetPinAssert live).pins.resetHeld = true ∧ (after .resetPinAssert live).pins.mainSupply = true) ∧
    ((down true false).pins.resetHeld = true ∧ (down true false).pins.mainSupply = false) ∧
    ((down true true).pins.backup = true ∧
      (after (.resetPinRelease ⟨1, false, false⟩) (down true true)).retention.intact = false ∧
      (after (.resetPinRelease ⟨1, false, true⟩) (down true true)).retention = (down true true).retention) := by
  decide +kernel

/-- A frame 24 us into its first character 02h, which a start cuts there. -/
def cutShort : State :=
  onLine (fun l => { l with flight := some ⟨.status, some [2, 3], 1⟩, sinceOwn := 24 }) live

/-- R183: the character under way goes on to its end, through START, and no other follows. -/
theorem witness_frameCut :
    cutShort.line.txe = true ∧ live.line.txe = false ∧
    (let t := after .resetPinAssert cutShort
     t.node.state = .start ∧ t.line.flight = none ∧ t.line.txe = true ∧ t.line.txd = false ∧
     (t.elapse 8).line.txd = true ∧ (t.elapse 24).line.txd = false ∧ (t.elapse 120).line.txd = true ∧
     (t.elapse 135).line.txe = true ∧ (t.elapse 136).line.txe = false ∧ (t.elapse 136).line.txd = true) ∧
    (after (.endOfStart ⟨1, false, recordBytes, true, false, false⟩) (after (.powerOn ⟨1, false, false⟩) cutShort)).line.txe =
      true := by decide +kernel

theorem witness_RestAndSupplyLoss :
    (live.pins.mainSupply = true ∧ live.pins.backup = false) ∧ (down false true).pins.backup = true ∧
    (down false true).pins.mainSupply = false ∧ (down false false).pins.backup = false := by decide +kernel

/-- A START begun by a RESTART, whose straps are still to be read. -/
def restarting : State := after (.restart .broadcast) live

/-- A START begun with valid retention, with retained items. -/
def retaining (items : Retained) : State :=
  { State.reset with
    node := { State.reset.node with retentionValid := true, retainReading := true }
    retention := ⟨items, true⟩ }

theorem witness_EndOfStartEntersListen :
    15 ≤ 15 ∧ recordOk recordBytes = true ∧
    (State.reset.startUnderWay = true ∧ State.reset.node.strapsDue = false ∧
      State.strapAtZero ⟨1, false, recordBytes, true, false, false⟩ State.reset = false) ∧
    (restarting.startUnderWay = true ∧ restarting.node.strapsDue = true ∧ restarting.node.retentionValid = true ∧
      State.strapAtZero ⟨15, false, recordBytes, true, true, false⟩ restarting = false) ∧
    prof.gate.present = true ∧
    (let s := retaining { Retained.blank with
        gateState := .jammed, gateJam := some .stall, pump1 := ⟨1, .tripped .dryrun⟩, command := true, zeroCode := 655 }
     s.startUnderWay = true ∧ s.node.retentionValid = true ∧ absDiff s.retention.items.zeroCode prof.zeroNominal ≤ prof.driftLimit) ∧
    (retaining { Retained.blank with gateState := .closing, zeroCode := 65535 }).retention.items.gateState = .closing := by
  decide +kernel

theorem witness_EndOfStartEntersFallback :
    State.reset.startUnderWay = true ∧ recordOk (List.replicate 96 255) = false ∧
    (let s := after (.powerOn ⟨0, false, false⟩) State.reset
     s.startUnderWay = true ∧ State.strapAtZero ⟨1, false, recordBytes, false, false, false⟩ s = true) ∧
    (restarting.startUnderWay = true ∧ State.strapAtZero ⟨0, false, recordBytes, true, true, true⟩ restarting = true) := by
  decide +kernel

/-! ### Hypotheses met: the sump and the picture -/

/-- The sensor fault set, with a recovery run. -/
def faulty (run : Nat) : State := atLevel (fun m => { m with sensorFault := true, recoveryRun := run, ring := [], level := 65535 }) live

theorem witness_SampleTakesCode :
    (live.node.state.running = true ∧ live.restartPending = false ∧ live.level.sensorFault = false) ∧
    (live.level.zeroCode ≤ 575 + 80 ∧ 575 ≤ 4050) ∧ (574 + 80 < live.level.zeroCode ∧ live.level.outRun < 2) ∧
    (atLevel (fun m => { m with outRun := 2 }) live).level.outRun = 2 ∧
    (after (.sample ⟨4050, true, false⟩) live).level.ring.length = 8 ∧
    (after (.sample ⟨4050, true, false⟩) (atLevel (fun m => { m with ring := [] }) live)).level.ring.length ≠ 8 ∧
    (live.level.collector.underWay = false ∧ (after (.sample ⟨575, true, false⟩) live).pumps.p1.duty = 0) := by
  decide +kernel

/-- R83: the dry-stage timer started, run on, held and stopped at a sample. -/
theorem witness_dryStageAfter :
    (let s := atLevel (fun m => { m with dry := ⟨.dry, some false, 3⟩, ring := [], level := 65535, stage := .dry }) live
     let dryStage (d : DryStageTimer) : DryStageTimer :=
       (after (.sample ⟨655, false, false⟩) { s with pumps := { s.pumps with dryStage := d } }).pumps.dryStage
     dryStage .stopped = .counting 0 ∧ dryStage (.counting 5) = .counting 100005 ∧
     dryStage (.counting 600000000) = .counting 600000000 ∧ dryStage .held = .held) ∧
    (after (.sample ⟨1500, true, false⟩) live).pumps.dryStage = .stopped := by decide +kernel

/-- A sump at DRY in which a collection may start or go on, with nothing but the floats and the codes to decide it. -/
def drying (underWay armed : Bool) : State :=
  atLevel (fun m => { m with
    dry := ⟨.dry, some false, 3⟩, settle := some 30000000, armed := armed, collector := ⟨underWay, 0, 0⟩, ring := []
    level := 65535, stage := .dry }) live

/-- R15, R16, R18: the five cases of a collector at a sample after which no pump runs. -/
theorem witness_collectorAfter :
    (let t := after (.sample ⟨655, false, false⟩) (drying true false)
     t.level.collector = ⟨true, 655, 1⟩ ∧ t.pumps.p1.duty = 0 ∧ t.pumps.p2.duty = 0) ∧
    (after (.sample ⟨4051, false, false⟩) (drying true false)).level.collector = ⟨true, 0, 0⟩ ∧
    (after (.sample ⟨655, true, false⟩) (atLevel (fun m => { m with dry := ⟨.dry, some true, 2⟩ }) (drying true false))).level.collector =
      ⟨false, 0, 0⟩ ∧
    (let t := after (.sample ⟨655, false, false⟩) (drying false true)
     t.level.collector = ⟨true, 0, 0⟩ ∧ t.level.armed = false) ∧
    (after (.sample ⟨655, false, false⟩) (drying false false)).level.collector = ⟨false, 0, 0⟩ := by decide +kernel

theorem witness_SampleRecovers :
    ((faulty 6).node.state.running = true ∧ (faulty 6).restartPending = false ∧ (faulty 6).level.sensorFault = true) ∧
    (655 ≤ 575 + 80 ∧ (faulty 6).level.recoveryRun < 7) ∧ 7 ≤ (faulty 7).level.recoveryRun ∧ 4050 < 4051 := by
  decide +kernel

theorem witness_SampleFormsStage :
    (live.node.state.running = true ∧ live.restartPending = false) ∧
    (after (.sample ⟨1500, true, false⟩) live).level.level ≠ 65535 ∧
    (after (.sample ⟨1500, true, false⟩) (faulty 0)).level.level = 65535 := by decide +kernel

theorem witness_SampleOutsideRunning :
    State.reset.node.state = .start ∧ (inState .fallback live).node.state = .fallback ∧
    (inState .fallback live).restartPending = false ∧
    (let s := inState .fallback (atLevel (fun m => { m with high := ⟨.dry, some true, 2⟩ }) live)
     let t := after (.sample ⟨1500, true, true⟩) s
     s.pumps.p1.fault = .none ∧ s.pumps.p1.switch.debounced = .auto ∧ s.pumps.p2.fault = .none ∧
     s.pumps.p2.switch.debounced = .auto ∧ s.level.high.debounced ≠ .wet ∧ t.level.high.debounced = .wet ∧
     t.pumps.p1.duty = 100) ∧
    (let s := inState .fallback (atLevel (fun m => { m with dry := ⟨.wet, some false, 2⟩ })
        (atPump (fun q => { q with state := .running, duty := 100 }) live))
     let t := after (.sample ⟨1500, false, false⟩) s
     s.level.dry.debounced ≠ .dry ∧ t.level.dry.debounced = .dry ∧ t.pumps.p1.duty = 0) := by decide +kernel

theorem witness_SampleEventsComeAbout :
    (live.level.sensorFault = false ∧ 4050 < 4051 ∧ 2 ≤ (atLevel (fun m => { m with outRun := 2 }) live).level.outRun) ∧
    ((faulty 7).level.sensorFault = true ∧ (faulty 7).level.zeroCode ≤ 575 + 80 ∧ 7 ≤ (faulty 7).level.recoveryRun) ∧
    (let m := (atLevel (fun m => { m with dry := ⟨.wet, some false, 2⟩, high := ⟨.dry, some true, 2⟩ }) live).level
     m.dry.candidate = some false ∧ 2 ≤ m.dry.count ∧ m.dry.debounced ≠ .dry ∧
     m.high.candidate = some true ∧ 2 ≤ m.high.count ∧ m.high.debounced ≠ .wet) ∧
    (inState .fallback live).node.state ≠ .start := by decide +kernel

/-- A collection one code short of its end, with its sum. -/
def collecting (sum : Nat) : State :=
  atLevel (fun m => { m with
    dry := ⟨.dry, some false, 3⟩, settle := some 30000000, collector := ⟨true, sum, 15⟩, ring := [], level := 65535 }) live

theorem witness_CalibrationCompletes :
    (let s := collecting (15 * 655)
     s.node.state.running = true ∧ s.restartPending = false ∧
     s.collectionEnds ⟨655, false, false⟩ (after (.sample ⟨655, false, false⟩) s)) ∧
    absDiff ((15 * 655 + 655) / prof.calibrationCount) prof.zeroNominal ≤ prof.driftLimit ∧
    (collecting (15 * 800)).collectionEnds ⟨800, false, false⟩ (after (.sample ⟨800, false, false⟩) (collecting (15 * 800))) ∧
    prof.driftLimit < absDiff ((15 * 800 + 800) / prof.calibrationCount) prof.zeroNominal ∧
    (live.level.collector.underWay = false ∧ (drying true false).level.collector.count + 1 < prof.calibrationCount) := by
  have settled : ∀ sum, (collecting sum).level.settle = some 30000000 := fun _ => rfl
  unfold State.collectionEnds
  exact ⟨⟨by decide +kernel, by decide +kernel, by decide +kernel, by decide +kernel, by decide +kernel,
      ⟨_, settled _, by decide +kernel⟩, by decide +kernel, by decide +kernel, by decide +kernel, by decide⟩,
    by decide +kernel,
    ⟨by decide +kernel, by decide +kernel, by decide +kernel, ⟨_, settled _, by decide +kernel⟩, by decide +kernel,
      by decide +kernel, by decide +kernel, by decide⟩,
    by decide +kernel, by decide +kernel, by decide +kernel⟩

/-- Station 4 in the picture with a presence. -/
def peered (p : Presence) : State :=
  { live with picture := live.picture.put 3 { StationRecord.atStart with presence := p, lastSeq := 7 } }

theorem witness_RecordsAge :
    (live.node.state.running = true ∧ live.restartPending = false ∧ (3 : Fin 15) ≠ live.node.station) ∧
    ((peered .fresh).picture.records.get 3).presence = .fresh ∧
    ((peered .stale).picture.records.get 3).presence = .stale := by decide +kernel

theorem witness_NodeTimersExpire :
    live.restartPending = false ∧ live.picture.expired = false ∧ (inState .listen live).node.state = .listen ∧
    (inState .isolated live).node.state = .isolated := by decide +kernel

/-- A frame of a station open on the line, all its characters taken. -/
def hearing (kind src dest seq : Byte) (payload : List Byte) (s : State) : State :=
  onLine (fun l => { l with rx := some ⟨frameOf kind src dest seq payload, 8 + payload.length, false⟩ }) s

/-- A report as a peer sends it. -/
def peerPayload : List Byte := statusPayload Report.atStart .off .off .none .none

theorem witness_FrameCloseTakesPeerStatus :
    (live.node.state.running = true ∧ live.restartPending = false ∧ live.line.transmitting = false ∧
      live.line.echo = false) ∧
    validate ⟨frameOf kindStatus 4 255 9 peerPayload, 28, false⟩ = .good kindStatus 4 255 9 peerPayload ∧
    (4 : Byte).toNat = (3 : Fin 15).val + 1 ∧ (3 : Fin 15) ≠ live.node.station ∧
    StationRecord.gap ((peered .fresh).picture.records.get 3) 9 ∧
    ¬ StationRecord.gap ((peered .fresh).picture.records.get 3) 8 ∧
    ¬ StationRecord.gap ((peered .gone).picture.records.get 3) 9 := by
  unfold StationRecord.gap
  decide +kernel

theorem witness_OwnNumberClashes :
    live.node.state.running = true ∧ live.line.transmitting = false ∧
    (hearing kindStatus 1 255 9 peerPayload live).line.rx = some ⟨frameOf kindStatus 1 255 9 peerPayload, 28, false⟩ ∧
    validate ⟨frameOf kindStatus 1 255 9 peerPayload, 28, false⟩ = .good kindStatus 1 255 9 peerPayload ∧
    (1 : Byte) = stationByte live.node.station := by decide +kernel

theorem witness_FrameCloseDiscards :
    live.node.state ≠ .start ∧ live.restartPending = false ∧ live.line.transmitting = false ∧
    validate ⟨[182, 1], 2, false⟩ = .formatError ∧ validate ⟨[182, 3, 1, 0, 0, 0, 0, 0], 8, false⟩ = .crcError ∧
    validate ⟨frameOf kindReply 4 0 0 [1, 0], 10, false⟩ = .good kindReply 4 0 0 [1, 0] ∧
    (onLine (fun l => { l with echo := true }) live).line.echo = true := by decide +kernel

theorem witness_FormedFramesValidate :
    (List.replicate 48 (0 : Byte)).length ≤ 48 ∧ (15 : Byte).toNat ≤ 15 ∧ (255 : Byte).toNat = 255 ∧ (15 : Byte) ≠ 0 ∧
    statusContentOk peerPayload = true ∧ (0 : Byte).toNat ≤ 15 := by decide +kernel

theorem witness_StatusPayloadReadsBack :
    2 ≤ 20 ∧ Report.atStart.period = 50 * 20 ∧ Report.atStart.nodeState = .listen ∧ Report.atStart.level = 65535 ∧
    Report.atStart.demands.t ≤ 255 ∧ Report.atStart.shares.l ≤ 255 := by decide

theorem witness_FrameCloseDispatchesCommand :
    live.node.state ≠ .start ∧ live.line.transmitting = false ∧ live.line.echo = false ∧
    validate ⟨frameOf kindCommand 0 1 0 [1], 9, false⟩ = .good kindCommand 0 1 0 [1] ∧ payloadForm [1] = .command .close ∧
    validate ⟨frameOf kindCommand 0 255 0 [63], 9, false⟩ = .good kindCommand 0 255 0 [63] ∧
    payloadForm [63] = .command .restart ∧ payloadForm [] = .unknown 0 ∧ payloadForm [16, 1] = .badLength 16 ∧
    (1 : Byte) = stationByte live.node.station ∧ (9 : Byte).toNat ≠ 255 ∧ (9 : Byte) ≠ stationByte live.node.station ∧
    validate ⟨frameOf kindCommand 0 9 0 [1], 9, false⟩ = .good kindCommand 0 9 0 [1] ∧
    validate ⟨frameOf kindCommand 0 255 0 [16, 1], 10, false⟩ = .good kindCommand 0 255 0 [16, 1] ∧
    validate ⟨frameOf kindCommand 0 1 0 [], 8, false⟩ = .good kindCommand 0 1 0 [] ∧
    (inState .clash live).node.state = .clash := by decide +kernel

/-! ### Hypotheses met: the supply and the pumps -/

theorem witness_PassServesClasses :
    classSum Demands.t claims37 = 17 ∧ classSum Demands.m claims37 = 30 ∧ tierOf .flood claims37 = 460 ∧
    classSum Demands.p claims37 = 560 ∧ classSum Demands.l claims37 = 120 := by decide

theorem witness_SupplyEvents :
    (live.node.state ≠ .start ∧ live.restartPending = false ∧ Supply.generator ≠ live.allot.source) ∧
    (live.node.state.running = true ∧ live.allot.ownSag = false ∧ 1599 < live.profile.sagThreshold) ∧
    (let s := { live with allot := { live.allot with ownSag := true } }
     s.allot.ownSag = true ∧ s.profile.sagThreshold ≤ 1600) ∧
    (let s := { live with allot := { live.allot with sagHold := some 0 } }
     s.sagSeen = false ∧ s.allot.sagHold.isSome = true) := by decide +kernel

theorem witness_LoopStepMovesWant :
    (live.node.state.running = true ∧ live.restartPending = false ∧ live.level.dry.debounced = .wet) ∧
    (1289 - 1000 : Int) = 289 ∧ ¬ ((289 : Int).natAbs ≤ live.profile.narrowBand) ∧ live.wantMax = 200 ∧
    live.profile.stepSize = 10 ∧ (0 : Int) < 289 ∧ 0 < min (0 + 10) 200 ∧ min (0 + 10) 200 < live.profile.pump1.minDuty ∧
    (live.profile.pump1.minDuty ≤ min (25 + 10) 200) ∧ (50 : Int).natAbs ≤ live.profile.narrowBand ∧
    (200 : Int).natAbs ≤ live.profile.wideBand ∧ (-201 : Int) < 0 ∧ min (44 - 10) 200 < live.profile.pump1.minDuty ∧
    (faulty 0).level.level = 65535 ∧ (atLevel (fun m => { m with dry := ⟨.dry, none, 0⟩ }) live).level.dry.debounced ≠ .wet := by
  decide +kernel

theorem witness_SwitchChangeDebounces :
    live.restartPending = false ∧ SwitchPos.hand ≠ .unsettled ∧ SwitchPos.hand ≠ (live.pumps.get .one).switch.debounced ∧
    live.node.state.running = true ∧ (live.profile.pump .one).present = true ∧
    (let s := inState .fallback (atLevel (fun m => { m with high := ⟨.wet, some true, 3⟩ })
      (atPump (fun r => { r with switch := ⟨.off, none, 0⟩ }) live))
     s.node.state = .fallback ∧ (s.pumps.get .one).fault = .none ∧ (s.pumps.get .two).fault = .none ∧
     SwitchPos.auto ≠ (s.pumps.get .one).switch.debounced ∧ s.level.high.debounced = .wet) ∧
    (live.node.readClock + 100000) / 100000 = live.node.readClock / 100000 + 1 := by decide +kernel

/-- R87, R65: a LOCKED and a TRIPPED pump in FALLBACK. -/
theorem witness_SwitchChangeDebounces_locked :
    (let s := inState .fallback (atPump (fun r => { r with state := .locked, cause := .overcurrent, fault := .locked .overcurrent }) live)
     s.node.state = .fallback ∧ (s.pumps.get .one).fault = .locked .overcurrent ∧
     ((after (.switchChange .one .hand) s).pumps.get .one).state = .locked) ∧
    (let s := inState .fallback (atPump (fun r => { r with state := .tripped, cause := .dryrun, fault := .tripped .dryrun }) live)
     (s.pumps.get .one).fault = .tripped .dryrun ∧
     ((after (.switchChange .one .hand) s).pumps.get .one).state = .tripped) := by decide +kernel

theorem witness_PumpTimersExpire :
    (let s := atPump (fun r => { r with rest := .counting 0, retry := some 5, runAcc := 60000000 })
      { live with pumps := { live.pumps with dryStage := .counting 600000000 } }
     s.restartPending = false ∧ s.node.state.running = true ∧ (s.profile.pump .one).present = true ∧
     (s.pumps.get .one).duty = 0 ∧ (s.pumps.get .one).rest = .counting 0 ∧ (s.pumps.get .one).retry = some 5 ∧
     s.pumps.dryStage = .counting 600000000 ∧ 60000000 ≤ (s.pumps.get .one).runAcc ∧ s.node.state ≠ .start) ∧
    0 < ((atPump (fun r => { r with duty := 1 }) live).pumps.get .one).duty := by decide +kernel

theorem witness_TripsStopPumps :
    (let s := atPump (fun r => { r with state := .running, duty := 1, tripCount := 2 }) live
     s.node.state.running = true ∧ s.restartPending = false ∧ (s.profile.pump .one).present = true ∧
     0 < (s.pumps.get .one).duty ∧ (s.profile.pump .one).tripLevel < 2401 ∧ (s.pumps.get .one).state = .running ∧
     319 < (s.profile.pump .one).dryLevel ∧
     ((after (.overcurrentTrip .one 2401) s).pumps.get .one).tripCount = (s.profile.pump .one).lockoutLimit) ∧
    (let s := atPump (fun r => { r with state := .running, duty := 1 }) live
     ((after (.dryrunTrip .one 319) s).pumps.get .one).tripCount ≠ (s.profile.pump .one).lockoutLimit) := by decide +kernel

/-! ### Hypotheses met: the closure and the gate -/

theorem witness_PhaseTimersExpire :
    live.node.state.running = true ∧ live.restartPending = false ∧ live.profile.gate.present = true ∧
    (inPhase .warning .opened true false live).closure.phase = .warning ∧
    (inPhase .stopping .opened true false live).closure.phase = .stopping ∧
    (let s := inPhase .clearing .closed false true live
     s.closure.phase = .clearing ∧ s.gate.state = .closed ∧ s.closure.blocked = false ∧ s.gate.standsAt .toClose) ∧
    (let s := inPhase .clearing .opened true false live
     s.gate.state ≠ .closed ∧ s.gate.closedLimit.active = false) ∧
    (let s := atGate (fun g => { g with jam := some .stall }) (inPhase .clearing .jammed false true live)
     s.gate.keyDrive = none ∧ s.gate.jam.isSome = true ∧ (after .presenceClear s).closure.phase = .sealing) ∧
    (let s := atGate (fun g => { g with commandHold := true }) (inPhase .clearing .held false true live)
     s.gate.jam = none ∧ s.gate.bothLimits = false ∧ s.gate.closedLimit.active = true ∧
     (after .presenceClear s).closure.phase = .sealing) ∧
    (after .presenceClear (inPhase .clearing .held false true live)).closure.phase = .sealed ∧
    (let s := atGate (fun g => { g with keyDrive := some .toOpen }) (inPhase .clearing .opening false true live)
     s.gate.openLimit.active = false ∧ (after .presenceClear s).closure.phase = .sealing) ∧
    { live with profile := { prof with gate := GateProfile.blank } }.profile.gate.present = false := by
  unfold Gate.standsAt
  decide +kernel

theorem witness_DetectorAndReopenHold :
    (live.node.state.running = true ∧ live.restartPending = false ∧ live.profile.gate.present = true ∧
      true ≠ live.closure.outside) ∧
    (let s := { inPhase .sealed .closed false true live with closure := { Closure.atStart with phase := .sealed, reopenHold := some 0 } }
     s.originsFollow ∧ s.closure.phase = .sealed ∧ s.wanted = false ∧ s.closure.reopenHold = some 0 ∧
     s.gate.state ≠ .opened ∧ s.gate.openLimit.active = false) ∧
    (let s := { live with closure := { Closure.atStart with phase := .stopping, reopenHold := some 0 } }
     s.originsFollow ∧ s.closure.phase = .stopping ∧ s.wanted = false ∧ s.gate.state = .opened ∧ s.gate.standsAt .toOpen) := by
  unfold State.originsFollow Gate.standsAt
  decide +kernel

/-- R101, R117, R124: the reopen hold ends at a gate that is not OPEN but at its limit, HELD there, JAMMED, or under the key; and the
max-clear timer once BLOCKED is set. -/
theorem witness_DetectorAndReopenHold_gate :
    let reopened (s : State) : State := { s with closure := { Closure.atStart with phase := .sealed, reopenHold := some 0 } }
    let at' (g : GateState) (o c : Bool) : State := reopened (inPhase .sealed g o c live)
    (let s := at' .unknown true false
     s.originsFollow ∧ s.closure.phase = .sealed ∧ s.wanted = false ∧ s.closure.reopenHold = some 0 ∧
     s.gate.keyDrive = none ∧ s.gate.jam = none ∧ s.gate.bothLimits = false ∧ s.gate.openLimit.active = true ∧
     s.gate.commandHold = false ∧ s.gate.state ≠ .opened ∧ (after .reopenHoldExpiry s).closure.phase = .opened) ∧
    (let s := atGate (fun g => { g with commandHold := true }) (at' .held true false)
     s.originsFollow ∧ s.gate.commandHold = true ∧ s.gate.state = .held ∧ s.gate.bothLimits = false ∧
     (after .reopenHoldExpiry s).closure.phase = .reopening) ∧
    (let s := atGate (fun g => { g with jam := some .stall }) (at' .jammed true false)
     s.originsFollow ∧ s.gate.keyDrive = none ∧ s.gate.jam.isSome = true ∧
     (after .reopenHoldExpiry s).closure.phase = .reopening) ∧
    (let s := atGate (fun g => { g with keyDrive := some .toOpen }) (at' .opening true false)
     s.originsFollow ∧ s.gate.keyDrive = some .toOpen ∧ s.gate.openLimit.active = true ∧
     (after .reopenHoldExpiry s).closure.phase = .opened) ∧
    (let s := atGate (fun g => { g with keyDrive := some .toOpen }) (at' .opening false false)
     s.gate.openLimit.active = false ∧ (after .reopenHoldExpiry s).closure.phase = .reopening) ∧
    (let s := atGate (fun g => { g with keyDrive := some .toClose }) (at' .closed false true)
     s.gate.keyDrive = some .toClose ∧ (after .reopenHoldExpiry s).closure.phase = .reopening) ∧
    { live with closure := { live.closure with blocked := true } }.closure.blocked = true := by
  unfold State.originsFollow
  decide +kernel

theorem witness_LimitChanges :
    (let s := sealing
     s.restartPending = false ∧ true ≠ (s.gate.limit .closedLimit).active ∧ s.node.state.running = true ∧
     s.profile.gate.present = true ∧ s.gate.keyDrive = none ∧ s.gate.jam = none ∧ s.gate.openLimit.active = false ∧
     s.gate.state = .closing ∧ s.closure.phase = .sealing ∧ true ≠ (s.gate.limit .openLimit).active ∧
     s.gate.closedLimit.active = false ∧ s.gate.backoff = none) ∧
    (let s := reopening
     true ≠ (s.gate.limit .openLimit).active ∧ s.gate.closedLimit.active = false ∧ s.gate.state = .opening ∧
     s.closure.phase = .reopening ∧ s.originsFollow ∧ s.wanted = false) ∧
    (live.gate.withLimit .closedLimit true).bothLimits = true ∧
    (false ≠ (live.gate.limit .openLimit).active ∧ live.gate.closedLimit.active = false ∧ live.gate.state = .opened ∧
      live.closure.phase.gateDemand = none) ∧
    (inState .fallback live).gate.keyDrive = none ∧
    (let s := atGate (fun g => { g with travel := 1 }) sealing
     s.gate.backoff = none ∧ 0 < s.gate.travel ∧ 0 < s.profile.gate.travelMax ∧
     true ≠ (s.gate.limit .openLimit).active ∧ (after (.limitChange .openLimit true) s).gate.state = .jammed) ∧
    (let s := sealing
     s.gate.travel = 0 ∧ s.gate.openLimit.count < 3 ∧ 0 < s.profile.gate.travelMax ∧
     (after (.limitChange .openLimit true) s).gate.state = .jammed) ∧
    (let s := atGate (fun g => { g with closedLimit := ⟨false, 3⟩ }) reopening
     let t := after (.limitChange .closedLimit true) s
     s.gate.openLimit.active = false ∧ s.gate.backoff = none ∧ s.gate.travel = 0 ∧ s.gate.commandHold = false ∧
     3 ≤ s.gate.closedLimit.count ∧
     true ≠ (s.gate.limit .closedLimit).active ∧ s.profile.gate.ratedDraw ≤ t.allot.shares.m ∧ t.gate.state = .opening) ∧
    (let s := atGate (fun g => { g with keyDrive := some .toOpen, state := .opening, openLimit := ⟨false, 0⟩ }) live
     s.gate.keyDrive = some .toOpen ∧ LimitSwitch.closedLimit.dir = Dir.toOpen.opposite ∧ s.gate.atTarget .toOpen = false ∧
     s.gate.state = Dir.toOpen.moving ∧ true ≠ (s.gate.limit .closedLimit).active) := by
  unfold State.originsFollow
  decide +kernel

/-- R120, R124, R129: a gate at rest that reaches a limit, the limit of a back-off, a limit left under a demand, and FALLBACK with
the key held. -/
theorem witness_LimitChanges_at_rest :
    (let s := inPhase .stopping .held false false live
     s.gate.atTarget LimitSwitch.closedLimit.dir.opposite = false ∧ s.closure.phase.gateDemand ≠ some .toOpen ∧
     (after (.limitChange .closedLimit true) s).gate.state = .closed ∧
     (after (.limitChange .closedLimit true) s).counters.gateClosures = s.counters.gateClosures + 1) ∧
    (let s := inPhase .reopening .held false false live
     s.originsFollow ∧ s.wanted = false ∧ s.gate.commandHold = false ∧
     s.closure.phase.gateDemand = some LimitSwitch.closedLimit.dir.opposite ∧
     s.profile.gate.ratedDraw ≤ (after (.limitChange .closedLimit true) s).allot.shares.m ∧
     (after (.limitChange .closedLimit true) s).gate.state = .opening) ∧
    (let s := inPhase .sealing .unknown false false live
     (after (.limitChange .openLimit true) s).gate.dir = some .toClose) ∧
    (let s := atGate (fun g => { g with backoff := some 0 }) driving
     s.drivenToward .toClose ∧ s.gate.backoff.isSome = true ∧
     s.profile.gate.ratedDraw ≤ (after (.limitChange .openLimit true) s).allot.shares.m ∧
     (after (.limitChange .openLimit true) s).gate.motor = some .toClose) ∧
    (let s := inPhase .sealed .closed false true live
     false ≠ (s.gate.limit .closedLimit).active ∧ s.gate.state = LimitSwitch.closedLimit.dir.atLimit ∧
     s.gate.atTarget .toOpen = false ∧ s.gate.commandHold = false ∧ s.closure.phase.gateDemand = some .toClose ∧
     (after (.limitChange .closedLimit false) s).gate.state = .closing) ∧
    (let s := inState .fallback (atGate (fun g => { g with keyDrive := some .toClose }) (inPhase .stopping .closing false false live))
     s.gate.backoff = none ∧ s.gate.keyDrive = some .toClose ∧
     (after (.limitChange .closedLimit true) s).gate.state = .closed ∧
     (after (.limitChange .openLimit true) s).gate.motor = some .toClose) := by
  unfold State.drivenToward State.originsFollow
  refine ⟨?_, ?_, ?_, ?_, ?_, ?_⟩ <;> decide +kernel

theorem witness_KeyTakesAndReleases :
    (live.restartPending = false ∧ live.node.state.running = true ∧ live.profile.gate.present = true ∧
      live.gate.key.debounced ≠ .turned .toOpen ∧ live.gate.atTarget .toOpen = true ∧ live.gate.bothLimits = false ∧
      live.gate.atTarget .toClose = false ∧ live.gate.keyStalled = false) ∧
    (let s := after (.keyTakeover .toClose) live
     s.gate.key.debounced ≠ .auto ∧ s.gate.jam = none ∧ s.gate.bothLimits = false ∧ s.closure.phase.gateDemand = none) ∧
    (atGate (fun g => { g with jam := some .travel, key := ⟨.turned .toOpen, none, 0⟩ }) live).gate.jam.isSome = true ∧
    (let s := atGate (fun g => { g with jam := some .travel, key := ⟨.turned .toClose, none, 0⟩, keyDrive := some .toClose })
        (inPhase .sealing .closed false true live)
     s.gate.key.debounced ≠ .auto ∧ s.gate.jam.isSome = true ∧ (after .keyRelease s).closure.phase = .sealing ∧
     (after .keyRelease s).gate.state = .jammed) ∧
    (let s := atGate (fun g => { g with key := ⟨.turned .toOpen, none, 0⟩, keyDrive := some .toOpen })
        (inPhase .sealed .opening false false live)
     s.gate.key.debounced ≠ .auto ∧ s.gate.jam = none ∧ s.gate.bothLimits = false ∧ s.gate.commandHold = false ∧
     s.closure.phase = .sealed ∧ s.gate.closedLimit.active = false ∧
     s.profile.gate.ratedDraw ≤ (after .keyRelease s).allot.shares.m) ∧
    (let s := atGate (fun g => { g with key := ⟨.turned .toOpen, none, 0⟩, keyDrive := some .toOpen })
        (inPhase .reopening .opened true false live)
     s.gate.key.debounced ≠ .auto ∧ s.originsFollow ∧ s.wanted = false) ∧
    (let s := atGate (fun g => { g with key := ⟨.turned .toClose, none, 0⟩, keyDrive := some .toClose })
        (inPhase .reopening .closing false false live)
     s.gate.jam = none ∧ s.gate.bothLimits = false ∧ s.gate.commandHold = false ∧ s.gate.openLimit.active = false ∧
     s.originsFollow ∧ s.wanted = false ∧ s.profile.gate.ratedDraw ≤ (after .keyRelease s).allot.shares.m ∧
     (after .keyRelease s).gate.state = .opening) ∧
    (let s := atGate (fun g => { g with
          key := ⟨.turned .toClose, none, 0⟩, keyDrive := some .toClose, commandHold := true })
        (inPhase .sealing .closing false false live)
     s.gate.commandHold = true ∧ (after .keyRelease s).gate.state = .held ∧
     (after .keyRelease s).gate.holdCause = some .command) ∧
    (let s := inState .fallback (inPhase .stopping .jammed true true live)
     s.node.state = .fallback ∧ s.gate.bothLimits = true ∧ s.gate.key.debounced ≠ .turned .toClose) := by
  unfold State.originsFollow
  decide +kernel

theorem witness_GateDriveEvents :
    (sealing.drivenToward .toClose ∧ reopening.drivenToward .toOpen) ∧
    (sealing.restartPending = false ∧ sealing.profile.gate.stallLevel < 1601 ∧ sealing.gate.backoff = none ∧
      0 < sealing.gate.retries) ∧
    ((atGate (fun g => { g with backoff := some 0 }) sealing).gate.backoff.isSome = true ∧
      (atGate (fun g => { g with retries := 0 }) sealing).gate.retries = 0) ∧
    (let s := after (.keyTakeover .toClose) live
     s.gate.keyDrive = some .toClose ∧ s.gate.motor.isSome = true ∧ s.gate.atTarget .toClose = false) ∧
    (sealing.gate.state.moves = true ∧ sealing.gate.keyDrive = none ∧ sealing.gate.bothLimits = false) ∧
    sealing.profile.gate.ratedDraw ≤ (after (.gateStall 1601) sealing).allot.shares.m := by
  unfold State.drivenToward State.originsFollow
  decide +kernel

/-! ### Hypotheses met: the lamps and the line -/

/-- Lamp currents that leave every lamp as it is, but channel 6. -/
def readsSix (c : Nat) : LampReads := ⟨1600, ⟨1000, 1000, 1000, 1000, 1000, c, 1000, 0⟩⟩

/-- A lit carriageway lamp on channel 6 that has counted toward its failure and its short. -/
def sixth (f n : Nat) (s : State) : State :=
  { s with lamps := { s.lamps with common := 50, recs := s.lamps.recs.set 5 ⟨none, .ok, f, n, false, 50⟩ } }

theorem witness_LampTickChecksLamps :
    (live.restartPending = false ∧ live.node.state.running = true ∧ (inState .fallback live).node.state = .fallback) ∧
    (live.profile.a1 ≤ 1600 ∧ max live.profile.a1 live.profile.a2 ≤ 1600 ∧ live.lamps.bandFormed = false) ∧
    ((sixth 7 2 live).tickOutput 5 = 50 ∧ (live.profile.lamps.get 5).cls = .carriageway ∧
      79 < live.profile.openThreshold * 50 / 100 ∧ live.profile.filterLimit ≤ 7 + 1 ∧
      live.profile.openThreshold * 50 / 100 ≤ 3201 ∧ live.profile.shortThreshold < 3201) ∧
    (live.tickOutput 7 = 0) ∧
    (let s := { live with lamps := { live.lamps with band := .glare, bandFormed := true } }
     s.lamps.bandFormed = true ∧ 2 ≤ s.lamps.band.num) ∧
    0 < State.lampsLost (sixth 7 2 live) (after (.lampTick (readsSix 79)) (sixth 7 2 live)) ∧
    State.lampsLost live (after (.lampTick (readsSix 1000)) live) = 0 := by decide +kernel

/-- A REPLY in flight with its frame fixed and some of it sent. -/
def sending (n a : Nat) (acc : Access) (s : State) : State :=
  onLine (fun l => { l with
    flight := some ⟨.reply [1, 0], some (frameOf kindReply 1 0 0 [1, 0]), n⟩, access := acc, attempts := a }) s

/-- A STATUS in flight, no longer the newest, its marker waiting. -/
def superseded : State :=
  onLine (fun l => { l with
    flight := some ⟨.status, some (frameOf kindStatus 1 255 9 peerPayload), 28⟩, newer := true, waiting := [.status] }) live

theorem witness_CharactersAndAttempts :
    ((sending 0 0 .defer live).line.access = .defer ∧ live.node.state.transmits = true ∧ live.line.rx = none) ∧
    (sending 0 1 (.backoff 15) live).line.access = .backoff 15 ∧
    ((sending 1 0 .none live).line.flight = some ⟨.reply [1, 0], some (frameOf kindReply 1 0 0 [1, 0]), 1⟩ ∧
      1 < (frameOf kindReply 1 0 0 [1, 0]).length) ∧
    (live.node.state ≠ .start ∧ (sending 1 0 .none live).line.transmitting = true) ∧
    (let s := hearing kindReply 4 0 0 [1, 0] live
     s.line.rx = some ⟨frameOf kindReply 4 0 0 [1, 0], 10, false⟩ ∧ s.line.transmitting = false ∧
     s.line.silence + 240 ≤ 240 ∧ 240 < s.line.silence + 241) ∧
    (let t := after (.lineCharacter .own) (sending 1 0 .none live)
     t.line.txe = true ∧ t.line.txd = false ∧ (t.elapse 32).line.txd = bitOf 3 1 ∧ (t.elapse 144).line.txd = true) ∧
    live.line.flight = none ∧ live.line.txd = true := by decide +kernel

/-- R149, R152 to R154: a character that comes after the open frame should have closed, the frame a command of another station. -/
theorem witness_CharactersAndAttempts_overdue :
    let s := hearing kindCommand 0 1 0 [0x01] live
    s.node.state ≠ .start ∧ s.line.rx.isSome = true ∧ s.line.transmitting = false ∧ 240 < s.line.silence + 241 ∧
    (let u := after .frameClose (s.elapse 241)
     let t := after (.lineCharacter (.other 241 (wireOf 0xB6))) s
     u.node.state ≠ .start ∧ u.closure.phase = .warning ∧ t.closure.phase = .warning ∧ t.line.rx = some ⟨[0xB6], 1, false⟩) := by
  decide +kernel

theorem witness_CollisionsAreResolved :
    (let s := sending 1 7 .none live
     s.restartPending = false ∧ s.line.access = .none ∧ 7 ≤ s.line.attempts ∧
     (0 : Byte) ≠ byteAt (frameOf kindReply 1 0 0 [1, 0]) (1 - 1)) ∧
    (sending 1 6 .none live).line.attempts < 7 ∧
    (superseded.line.newer = true ∧ .status ∈ superseded.line.waiting ∧ superseded.line.access = .none) := by decide +kernel

theorem witness_AttemptsAndReportsComplete :
    (let s := sending 10 0 .none live
     s.line.access = .none ∧ s.restartPending = false ∧ 10 ≤ (frameOf kindReply 1 0 0 [1, 0]).length ∧
     s.node.state.transmits = true) ∧
    (superseded.line.access = .none ∧ 28 ≤ (frameOf kindStatus 1 255 9 peerPayload).length) ∧
    (live.line.flight = none ∧ live.line.waiting = []) ∧
    (let s := sending 1 7 .none live
     let t := after (.collision 0 true) s
     s.line.waiting = [] ∧ t.line.attempts = 0 ∧ t.line.access = .none) ∧
    (let s := onLine (fun l => { l with lastChar := .other, silence := 159, waiting := [.status] }) (sending 10 0 .none live)
     s.busyAfter (160 - s.line.sinceOwn) ∧ (after .attemptComplete s).counters.deferrals = s.counters.deferrals + 1) := by
  unfold State.busyAfter
  decide +kernel

/-! ### Hypotheses met: the commands -/

theorem witness_ClosureAndGateCommands :
    (live.node.state = .active ∧ live.restartPending = false ∧ live.profile.gate.present = true ∧
      live.closure.phase = .opened ∧ live.line.waiting.length < 3) ∧
    reopening.closure.phase = .reopening ∧ (inPhase .sealed .closed false true live).closure.phase.holdable = true ∧
    (sealing.gate.keyDrive = none ∧ sealing.gate.jam = none ∧ sealing.gate.bothLimits = false ∧
      sealing.gate.state.moves = true) ∧
    (let s := atGate (fun g => { g with dir := some .toClose, commandHold := true }) (inPhase .sealing .held false false live)
     s.gate.state = .held ∧ s.gate.backoff = none ∧ s.gate.dir = some .toClose ∧ s.gate.closedLimit.active = false ∧
     s.closure.phase = .sealing ∧ s.profile.gate.ratedDraw ≤ (after (.gateRelease .addressed) s).allot.shares.m) ∧
    (inPhase .clearing .held false false live).closure.phase.gateDemand = none ∧
    (let s := atGate (fun g => { g with dir := some .toClose, commandHold := true, travel := 7 })
        (inPhase .reopening .held false false live)
     s.closure.phase.gateDemand = some .toOpen ∧ s.originsFollow ∧ s.wanted = false ∧ s.gate.bothLimits = false ∧
     s.gate.atTarget .toOpen = false ∧ s.gate.dir ≠ some .toOpen ∧
     (after (.gateRelease .addressed) s).gate.state = .opening ∧ (after (.gateRelease .addressed) s).gate.travel = 0) ∧
    (let s := atGate (fun g => { g with dir := some .toOpen, commandHold := true, travel := 7 })
        (inPhase .reopening .held false false live)
     s.gate.dir = some .toOpen ∧ (after (.gateRelease .addressed) s).gate.travel = 7) := by
  unfold State.originsFollow
  decide +kernel

theorem witness_PumpCommands :
    live.node.state = .active ∧ live.restartPending = false ∧ (2 : Byte).toNat = PumpNo.two.num ∧
    (live.profile.pump .two).present = true ∧ (live.pumps.get .two).fault = .none ∧
    (live.pumps.get .two).switch.debounced = .auto ∧ live.level.dry.debounced = .wet := by decide +kernel

theorem witness_LampCommands :
    live.node.state = .active ∧ live.restartPending = false ∧ (7 : Byte).toNat = (6 : Fin 8).val + 1 ∧
    (live.profile.lamps.get 6).cls = .carriageway ∧ (live.profile.lamps.get 4).cls = .guidance ∧
    (live.lamps.recs.get 6).health.inService = true ∧
    ((after (.lampManual .addressed 7 255) live).lamps.recs.get 6).submerged = false := by decide +kernel

theorem witness_CalibrateAndClear :
    (let s := atLevel (fun m => { m with collector := ⟨false, 0, 0⟩ }) (collecting 0)
     s.node.state = .active ∧ s.restartPending = false ∧ s.level.dry.debounced = .dry ∧
     s.level.settle = some 30000000 ∧ s.profile.settleTime * 1000000 ≤ 30000000 ∧ s.level.stage = .wet ∧
     s.level.sensorFault = false ∧ (after (.calibrate .addressed) s).pumps.p1.duty = 0 ∧
     (after (.calibrate .addressed) s).pumps.p2.duty = 0) ∧
    (collecting 0).level.collector.underWay = true ∧
    (let s := atGate (fun g => { g with jam := some .stall, state := .jammed }) live
     s.gate.jam.isSome = true ∧ s.gate.bothLimits = false ∧ s.gate.keyDrive = none ∧
     s.closure.phase.gateDemand = none) ∧
    (let s := atGate (fun g => { g with jam := some .limits }) (inPhase .sealing .jammed true true live)
     s.gate.bothLimits = true ∧ s.gate.keyDrive = none ∧ s.closure.phase = .sealing ∧
     (after (.clear .addressed) s).closure.phase = .sealing ∧ (after (.clear .addressed) s).gate.state = .jammed) ∧
    (let s := { inPhase .clearing .opened true false live with
       closure := { Closure.atStart with phase := .clearing, maxClearTimer := 60000000, blocked := true } }
     s.closure.phase = .clearing ∧ (after (.clear .addressed) s).closure.maxClearTimer = 0) := by
  decide +kernel

theorem witness_QueryAndDumps :
    live.node.state = .active ∧ live.restartPending = false ∧ (5 : Byte).toNat ≤ 5 ∧
    (inState .fallback live).node.state = .fallback := by decide +kernel

theorem witness_RestartBeginsStart :
    live.node.state ≠ .start ∧ (inState .clash live).node.state = .clash ∧
    (live.node.state ≠ .clash ∧ live.line.waiting.length < 4 ∧ live.line.replyLeft = false) ∧
    4 ≤ (onLine (fun l => { l with waiting := List.replicate 4 (.reply [1, 0]) }) live).line.waiting.length ∧
    (let s := onLine (fun l => { l with flight := some ⟨.reply [0x3F, 0x00], some [182], 1⟩ }) { live with restartPending := true }
     s.restartPending = true ∧ s.line.access = .none ∧ s.node.state ≠ .start) ∧
    (let s := onLine (fun l => { l with flight := some ⟨.reply [0x3F, 0x00], some [182], 1⟩, attempts := 7 })
        { live with restartPending := true }
     7 ≤ s.line.attempts ∧ (0 : Byte) ≠ byteAt [182] (1 - 1) ∧ (after (.collision 0 true) s).node.state = .start) ∧
    (let s := onLine (fun l => { l with
          flight := some ⟨.status, some [2, 3], 1⟩, waiting := List.replicate 4 (.reply [0x3F, 0x00]) })
        { live with restartPending := true }
     s.line.waiting.getLast? = some (.reply [0x3F, 0x00]) ∧ .status ∉ s.line.waiting ∧
     (after .reportTimerExpiry s).node.state = .start) ∧
    (let s := onLine (fun l => { l with waiting := [.reply [0x3F, 0x00]], flight := some ⟨.status, none, 0⟩, access := .defer })
        { hearing kindStatus 1 255 9 peerPayload live with restartPending := true }
     s.queued (.reply [0x3F, 0x00]) ∧ s.line.transmitting = false ∧ s.line.echo = false ∧
     stationByte s.node.station = 1 ∧ (after .frameClose s).node.state = .start) := by
  unfold State.queued
  decide +kernel

/-- R180: a row while an addressed RESTART waits for its REPLY. -/
theorem witness_RestartBeginsStart_waiting :
    let s := onLine (fun l => { l with flight := some ⟨.reply [0x3F, 0x00], none, 0⟩, access := .defer })
      { live with restartPending := true }
    let u := after (.pumpManual .addressed 1 50) { s with restartPending := false }
    s.restartPending = true ∧ s.node.state ≠ .start ∧ u.node.state ≠ .start ∧ s.line.replyLeft = false ∧
    ¬ State.mayTake { s with pending := [.pumpManual .addressed 1 50] } .restart ∧
    s.restartReplies = 1 ∧ s.restartReplies ≤ u.restartReplies ∧
    (after (.pumpManual .addressed 1 50) s).node.state ≠ .start ∧ u.pumps.p1.remote = true := by
  unfold State.mayTake
  decide +kernel

theorem witness_RefusedCommandsChangeNothing :
    live.restartPending = false ∧ State.reset.node.state = .start ∧ (inState .clash live).node.state = .clash ∧
    MaintCommand.close ≠ .restart ∧ (inState .fallback live).node.state = .fallback ∧ live.node.state = .active ∧
    { live with profile := { prof with gate := GateProfile.blank } }.profile.gate.present = false ∧
    ((1 : Byte).toNat = (0 : Fin 8).val + 1 ∧ (live.profile.lamps.get 0).cls = .signalRed) ∧
    (live.level.collector.underWay = false ∧ live.level.dry.debounced ≠ .dry) ∧
    (3 : Byte).toNat ≠ PumpNo.one.num ∧ (3 : Byte).toNat ≠ PumpNo.two.num ∧
    ((8 : Byte).toNat = (7 : Fin 8).val + 1 ∧ (live.profile.lamps.get 7).cls = .unused) ∧ 5 < (6 : Byte).toNat := by
  decide +kernel

end Sys2Proof.Tests
end

section
/-! PROOFS. The floats and the stage a sample leaves (R8, R10 to R12). First what each part of a sample leaves
alone, then what the floats' read and the stage's part make, then the whole sample (R1), then the event that takes it. -/

namespace Sys2Proof.Machine

open Sys2Proof

/-! ### What the parts of a sample leave alone -/

/-- The range test and fault checks change their runs, the ring and the fault flag only (R2, R3, R6, R7). -/
theorem takeCode_frame (m : LevelMonitor) (code : Nat) :
    { m.takeCode code with
      outRun := m.outRun, ring := m.ring, sensorFault := m.sensorFault, recoveryRun := m.recoveryRun } = m := by
  unfold LevelMonitor.takeCode
  dsimp only
  repeat' split
  all_goals rfl

/-- The average and its conversion change the level only (R4, R5). -/
theorem takeLevel_frame (p : Profile) (m : LevelMonitor) (ok : Bool) :
    { m.takeLevel p ok with level := m.level } = m := by
  unfold LevelMonitor.takeLevel
  repeat' split
  all_goals rfl

/-- The stage's part changes the stage only (R10 to R12). -/
theorem takeStage_frame (p : Profile) (m : LevelMonitor) : { m.takeStage p with stage := m.stage } = m := by
  unfold LevelMonitor.takeStage
  split <;> rfl

/-- The judging of a new zero changes the zero code, the DRIFT flag and the collector only (R19). -/
theorem judgeZero_frame (p : Profile) (m : LevelMonitor) (z : Nat) :
    { (m.judgeZero p z).1 with zeroCode := m.zeroCode, drift := m.drift, collector := m.collector } = m := by
  unfold LevelMonitor.judgeZero
  split <;> rfl

/-- The collector's part changes the collector, the armed indication, the zero code and the DRIFT flag only (R15 to R19). -/
theorem takeCalibration_frame (p : Profile) (m : LevelMonitor) (code : Nat) (ok : Bool) :
    { (m.takeCalibration p code ok).1 with
      zeroCode := m.zeroCode, drift := m.drift, armed := m.armed, collector := m.collector } = m := by
  have judged (z : Nat) :
      { (m.judgeZero p z).1 with
        zeroCode := m.zeroCode, drift := m.drift, armed := m.armed, collector := m.collector } = m :=
    congrArg (fun u : LevelMonitor => { u with armed := m.armed }) (judgeZero_frame p m z)
  unfold LevelMonitor.takeCalibration
  dsimp only
  split
  · split
    · split
      · split
        · exact judged _
        · rfl
      · rfl
    · rfl
  · split <;> rfl

@[simp] theorem takeCode_dry (m : LevelMonitor) (code : Nat) : (m.takeCode code).dry = m.dry :=
  (congrArg LevelMonitor.dry (takeCode_frame m code) :)

@[simp] theorem takeCode_high (m : LevelMonitor) (code : Nat) : (m.takeCode code).high = m.high :=
  (congrArg LevelMonitor.high (takeCode_frame m code) :)

@[simp] theorem takeCode_stage (m : LevelMonitor) (code : Nat) : (m.takeCode code).stage = m.stage :=
  (congrArg LevelMonitor.stage (takeCode_frame m code) :)

@[simp] theorem takeLevel_dry (p : Profile) (m : LevelMonitor) (ok : Bool) : (m.takeLevel p ok).dry = m.dry :=
  (congrArg LevelMonitor.dry (takeLevel_frame p m ok) :)

@[simp] theorem takeLevel_high (p : Profile) (m : LevelMonitor) (ok : Bool) : (m.takeLevel p ok).high = m.high :=
  (congrArg LevelMonitor.high (takeLevel_frame p m ok) :)

@[simp] theorem takeLevel_stage (p : Profile) (m : LevelMonitor) (ok : Bool) : (m.takeLevel p ok).stage = m.stage :=
  (congrArg LevelMonitor.stage (takeLevel_frame p m ok) :)

@[simp] theorem takeFloats_level (m : LevelMonitor) (dry high : Bool) : (m.takeFloats dry high).level = m.level := rfl

@[simp] theorem takeFloats_stage (m : LevelMonitor) (dry high : Bool) : (m.takeFloats dry high).stage = m.stage := rfl

@[simp] theorem takeStage_level (p : Profile) (m : LevelMonitor) : (m.takeStage p).level = m.level :=
  (congrArg LevelMonitor.level (takeStage_frame p m) :)

@[simp] theorem takeStage_dry (p : Profile) (m : LevelMonitor) : (m.takeStage p).dry = m.dry :=
  (congrArg LevelMonitor.dry (takeStage_frame p m) :)

@[simp] theorem takeStage_high (p : Profile) (m : LevelMonitor) : (m.takeStage p).high = m.high :=
  (congrArg LevelMonitor.high (takeStage_frame p m) :)

@[simp] theorem takeCalibration_level (p : Profile) (m : LevelMonitor) (code : Nat) (ok : Bool) :
    (m.takeCalibration p code ok).1.level = m.level :=
  (congrArg LevelMonitor.level (takeCalibration_frame p m code ok) :)

@[simp] theorem takeCalibration_dry (p : Profile) (m : LevelMonitor) (code : Nat) (ok : Bool) :
    (m.takeCalibration p code ok).1.dry = m.dry :=
  (congrArg LevelMonitor.dry (takeCalibration_frame p m code ok) :)

@[simp] theorem takeCalibration_high (p : Profile) (m : LevelMonitor) (code : Nat) (ok : Bool) :
    (m.takeCalibration p code ok).1.high = m.high :=
  (congrArg LevelMonitor.high (takeCalibration_frame p m code ok) :)

@[simp] theorem takeCalibration_stage (p : Profile) (m : LevelMonitor) (code : Nat) (ok : Bool) :
    (m.takeCalibration p code ok).1.stage = m.stage :=
  (congrArg LevelMonitor.stage (takeCalibration_frame p m code ok) :)

/-! ### The floats (R8) -/

/-- A read makes of a float what R8 says. -/
theorem FloatInput.tookRead_read (f : FloatInput) (wet : Bool) : f.tookRead wet (f.read wet) := ⟨rfl, rfl, rfl⟩

@[simp] theorem takeFloats_dry (m : LevelMonitor) (dry high : Bool) : (m.takeFloats dry high).dry = m.dry.read dry := rfl

@[simp] theorem takeFloats_high (m : LevelMonitor) (dry high : Bool) :
    (m.takeFloats dry high).high = m.high.read high := rfl

/-! ### The level stage (R10) -/

theorem Stage.num_le (k : Stage) : k.num ≤ 4 := by cases k <;> decide

/-- A number within the five stages names the stage of that number. -/
theorem Stage.num_getD_ofNum {n : Nat} (h : n ≤ 4) (k : Stage) : ((Stage.ofNum n).getD k).num = n := by
  match n, h with
  | 0, _ | 1, _ | 2, _ | 3, _ | 4, _ => rfl

theorem reached_le (p : Profile) (level : Nat) : reached p level ≤ 4 := by
  unfold reached
  repeat' split
  all_goals omega

/-- The level has reached the threshold of the highest stage reached. -/
theorem threshold_reached_le {p : Profile} {level : Nat} (h : 1 ≤ reached p level) :
    p.threshold (reached p level) ≤ level := by
  revert h
  unfold reached
  split
  next h4 => exact fun _ => h4
  split
  next h3 => exact fun _ => h3
  split
  next h2 => exact fun _ => h2
  split
  next h1 => exact fun _ => h1
  exact fun h => absurd h (by omega)

/-- No threshold that the level has reached lies above the highest stage reached. -/
theorem le_reached {p : Profile} {level j : Nat} (h1 : 1 ≤ j) (h4 : j ≤ 4) (h : p.threshold j ≤ level) :
    j ≤ reached p level := by
  unfold reached
  match j, h1, h4 with
  | 1, _, _ | 2, _, _ | 3, _, _ | 4, _, _ =>
    simp only [Profile.threshold] at h
    repeat' split
    all_goals omega

/-- A level at or above a higher stage's threshold raises the stage at once. -/
theorem levelStage_of_rise {p : Profile} {level held : Nat} (h : held < reached p level) :
    levelStage p level held = reached p level := if_pos h

/-- A level below the held stage's threshold less the hysteresis lowers the stage by one step. -/
theorem levelStage_of_fall {p : Profile} {level held : Nat} (hr : reached p level ≤ held) (h1 : 1 ≤ held)
    (h : level + p.hysteresis < p.threshold held) : levelStage p level held = held - 1 := by
  rw [levelStage, if_neg (Nat.not_lt.mpr hr), if_pos ⟨h1, h⟩]

/-- Between the two the stage stands. -/
theorem levelStage_of_stand {p : Profile} {level held : Nat} (hr : reached p level ≤ held)
    (h : held = 0 ∨ p.threshold held ≤ level + p.hysteresis) : levelStage p level held = held := by
  rw [levelStage, if_neg (Nat.not_lt.mpr hr), if_neg (by omega)]

theorem levelStage_le {p : Profile} {level held : Nat} (h : held ≤ 4) : levelStage p level held ≤ 4 := by
  have hr := reached_le p level
  unfold levelStage
  repeat' split
  all_goals omega

theorem floatFloor_le (d h : FloatState) : floatFloor d h ≤ 4 := by
  unfold floatFloor
  repeat' split
  all_goals omega

/-! ### The stage at the end of a sample (R10 to R12) -/

/-- While the level is not valid the stage comes from the floats alone (R12). -/
theorem takeStage_stage_of_invalid {p : Profile} {m : LevelMonitor} (h : m.level = invalidLevel) :
    (m.takeStage p).stage = floatStage m.dry.debounced m.high.debounced := by
  simp [LevelMonitor.takeStage, LevelMonitor.valid, h]

/-- While it is valid the stage is the level stage raised to the floor of the floats (R10, R11). -/
theorem takeStage_num_of_valid {p : Profile} {m : LevelMonitor} (h : m.level ≠ invalidLevel) :
    (m.takeStage p).stage.num =
      max (levelStage p m.level m.stage.num) (floatFloor m.dry.debounced m.high.debounced) := by
  simp only [LevelMonitor.takeStage, LevelMonitor.valid, h, ne_eq, not_false_eq_true, decide_true, if_true]
  exact Stage.num_getD_ofNum (Nat.max_le.mpr ⟨levelStage_le m.stage.num_le, floatFloor_le _ _⟩) _

/-! ### The whole sample (R1) -/

theorem sample_dry (p : Profile) (m : LevelMonitor) (r : SampleReads) :
    (m.sample p r).1.dry = m.dry.read r.dryFloatWet := by simp [LevelMonitor.sample]

theorem sample_high (p : Profile) (m : LevelMonitor) (r : SampleReads) :
    (m.sample p r).1.high = m.high.read r.highFloatWet := by simp [LevelMonitor.sample]

theorem sample_stage_of_invalid {p : Profile} {m : LevelMonitor} {r : SampleReads}
    (h : (m.sample p r).1.level = invalidLevel) :
    (m.sample p r).1.stage =
      floatStage (m.sample p r).1.dry.debounced (m.sample p r).1.high.debounced := by
  simp only [LevelMonitor.sample, takeCalibration_level, takeStage_level] at h
  simp only [LevelMonitor.sample, takeCalibration_stage, takeCalibration_dry, takeCalibration_high, takeStage_dry,
    takeStage_high, takeStage_stage_of_invalid h]

theorem sample_num_of_valid {p : Profile} {m : LevelMonitor} {r : SampleReads}
    (h : (m.sample p r).1.level ≠ invalidLevel) :
    (m.sample p r).1.stage.num =
      max (levelStage p (m.sample p r).1.level m.stage.num)
        (floatFloor (m.sample p r).1.dry.debounced (m.sample p r).1.high.debounced) := by
  simp only [LevelMonitor.sample, takeCalibration_level, takeStage_level] at h
  simp [LevelMonitor.sample, takeStage_num_of_valid h]

/-! ### The sample as an event (R13) -/

/-- In the node states with a valid profile the event takes the whole sample of the level monitor. -/
theorem takeSample_level {s : State} (h : s.node.state.running = true) (r : SampleReads) :
    (s.takeSample r).level = { (s.level.sample s.profile r).1 with sampleTimer := 0 } := by
  unfold State.takeSample
  split
  case h_1 hn | h_2 hn => simp [hn, NodeState.running] at h
  case h_3 => rfl

@[simp] theorem takeSample_restartPending (r : SampleReads) (s : State) :
    (s.takeSample r).restartPending = s.restartPending := by
  unfold State.takeSample
  split <;> rfl

/-- What follows from a sample in the other blocks leaves what only events change as the sample made it. -/
theorem stable_sampleEvent {s : State} (hn : s.node.state ≠ .start) (hp : s.restartPending = false) (r : SampleReads) :
    (s.sampleEvent r).stable = (s.atSample.takeSample r).stable := by
  rw [State.sampleEvent, if_neg hn]
  exact stable_endEvent (by simpa [State.atSample] using hp)

/-- Two states that agree in `stable` agree in the items a sample hands on (R13) and in the floats. -/
theorem level_of_stable {s t : State} (h : t.stable = s.stable) :
    t.level.level = s.level.level ∧ t.level.dry = s.level.dry ∧ t.level.high = s.level.high ∧
      t.level.stage = s.level.stage := by
  have hm : t.stable.level = s.stable.level := congrArg State.level h
  exact ⟨(congrArg LevelMonitor.level hm :), (congrArg LevelMonitor.dry hm :), (congrArg LevelMonitor.high hm :),
    (congrArg LevelMonitor.stage hm :)⟩

/-- The level, the floats and the stage after SAMPLE are those of the level monitor's sample. -/
theorem sampleEvent_level {s : State} (hrun : s.node.state.running = true) (hp : s.restartPending = false)
    (r : SampleReads) :
    (s.sampleEvent r).level.level = (s.atSample.level.sample s.profile r).1.level ∧
    (s.sampleEvent r).level.dry = (s.atSample.level.sample s.profile r).1.dry ∧
    (s.sampleEvent r).level.high = (s.atSample.level.sample s.profile r).1.high ∧
    (s.sampleEvent r).level.stage = (s.atSample.level.sample s.profile r).1.stage := by
  have hn : s.node.state ≠ .start := fun e => by simp [e, NodeState.running] at hrun
  have ht := level_of_stable (stable_sampleEvent hn hp r)
  rw [takeSample_level (by simpa [State.atSample] using hrun)] at ht
  simpa [State.atSample] using ht

/-- Settles O25: the event leaves the level monitor's sample as it is, and the sample's stage is R12's or R10's and R11's. -/
theorem sampleFormsStage : Obligations.SampleFormsStage := by
  unfold Obligations.SampleFormsStage
  intro r s hrun hp
  obtain ⟨hlevel, hdry, hhigh, hstage⟩ := sampleEvent_level hrun hp r
  have hheld : s.atSample.level.stage = s.level.stage := elapse_stage _ s
  refine ⟨s.sampleEvent r, rfl, ?dry, ?high, ?invalid, ?valid⟩
  case dry =>
    rw [hdry, sample_dry, State.atSample, elapse_dryFloat]
    exact FloatInput.tookRead_read _ _
  case high =>
    rw [hhigh, sample_high, State.atSample, elapse_highFloat]
    exact FloatInput.tookRead_read _ _
  case invalid =>
    intro h
    rw [hlevel] at h
    rw [hstage, hdry, hhigh]
    exact sample_stage_of_invalid h
  case valid =>
    intro h
    rw [hlevel] at h
    have hnum := sample_num_of_valid h
    rw [← hstage, ← hdry, ← hhigh, ← hlevel, hheld] at hnum
    exact ⟨reached s.profile _, levelStage s.profile _ s.level.stage.num, reached_le _ _, threshold_reached_le,
      fun _ => le_reached, levelStage_of_rise, levelStage_of_fall, levelStage_of_stand, hnum⟩

end Sys2Proof.Machine
end

section
/-! PROOFS. The own shares of an allotment pass, class by class (R52 to R55). First what serving one class gives and
leaves, then the tiers of PUMPING as one remainder passed down, then the four classes of a pass in order. -/

namespace Sys2Proof.Machine

open Sys2Proof

/-! ### One class (R52, R53, R55) -/

theorem serve_share_of_le {rem own total : Nat} (h : total ≤ rem) : (serve rem own total).share = own := by
  rw [serve, if_pos h]

theorem serve_share_of_lt {rem own total : Nat} (h : rem < total) :
    (serve rem own total).share = rem * own / total := by
  rw [serve, if_neg (Nat.not_le.mpr h)]

/-- Without a demand the share is 0, whether or not the remainder covers the class. -/
@[simp] theorem serve_share_zero (rem total : Nat) : (serve rem 0 total).share = 0 := by
  unfold serve
  split <;> simp

/-- Both cases leave the remainder less the whole sum: where the sum exceeds it, the difference is 0 already. -/
@[simp] theorem serve_rem (rem own total : Nat) : (serve rem own total).rem = rem - total := by
  unfold serve
  split
  · rfl
  · exact (Nat.sub_eq_zero_of_le (by omega)).symm

theorem sumBy_eq_classSum (f : Demands → Nat) (cs : List Claim) : sumBy f cs = classSum f cs := by
  rw [sumBy, classSum, List.sum_eq_foldl, List.foldl_map]

theorem tierSum_eq_tierOf (k : Stage) (cs : List Claim) : tierSum k cs = tierOf k cs := sumBy_eq_classSum _ _

/-! ### The sums of the tiers (R54) -/

/-- The tiers served before the tier of a stage. -/
def tiersAbove (k : Stage) : List Stage := tiers.filter fun j => decide (k.num < j.num)

/-- The tiers served after the tier of a stage. -/
def tiersBelow (k : Stage) : List Stage := tiers.filter fun j => decide (j.num < k.num)

theorem tiers_split (k : Stage) : tiers = tiersAbove k ++ k :: tiersBelow k := by cases k <;> rfl

theorem not_mem_tiersAbove (k : Stage) : k ∉ tiersAbove k := by simp [tiersAbove]

theorem not_mem_tiersBelow (k : Stage) : k ∉ tiersBelow k := by simp [tiersBelow]

theorem mem_tiers (k : Stage) : k ∈ tiers := by cases k <;> decide

theorem mem_tiersAbove {j k : Stage} : j ∈ tiersAbove k ↔ k.num < j.num := by
  simp only [tiersAbove, List.mem_filter, mem_tiers, decide_eq_true_eq, true_and]

theorem nodup_tiers : tiers.Nodup := by decide

theorem nodup_tiersAbove (k : Stage) : (tiersAbove k).Nodup := List.Pairwise.filter _ nodup_tiers

theorem classSum_cons (f : Demands → Nat) (c : Claim) (cs : List Claim) :
    classSum f (c :: cs) = f c.demands + classSum f cs := List.sum_cons

theorem classSum_filter_cons (q : Claim → Bool) (f : Demands → Nat) (c : Claim) (cs : List Claim) :
    classSum f ((c :: cs).filter q) = (if q c then f c.demands else 0) + classSum f (cs.filter q) := by
  rw [List.filter_cons]
  split
  · exact classSum_cons f c _
  · exact (Nat.zero_add _).symm

/-- No entry is in two tiers, so one more tier adds its own sum. -/
theorem tierOf_add_classSum {k : Stage} {ks : List Stage} (h : k ∉ ks) (cs : List Claim) :
    tierOf k cs + classSum Demands.p (cs.filter fun c => decide (c.stage ∈ ks)) =
      classSum Demands.p (cs.filter fun c => decide (c.stage ∈ k :: ks)) := by
  show classSum Demands.p (cs.filter fun c => decide (c.stage = k)) + _ = _
  simp only [List.mem_cons]
  induction cs with
  | nil => rfl
  | cons c cs ih =>
    simp only [classSum_filter_cons, ← ih, decide_eq_true_eq]
    by_cases hk : c.stage = k
    · have hks : c.stage ∉ ks := fun hc => h (hk ▸ hc)
      simp only [hk, h, true_or, if_true, if_false]
      omega
    · simp only [hk, false_or, if_false]
      omega

/-- The sums of different tiers add up to the PUMPING demands of the entries in them. -/
theorem sum_tierOf {ks : List Stage} (h : ks.Nodup) (cs : List Claim) :
    (ks.map fun k => tierOf k cs).sum = classSum Demands.p (cs.filter fun c => decide (c.stage ∈ ks)) := by
  induction ks with
  | nil => rw [List.filter_eq_nil_iff.mpr fun _ _ hc => List.not_mem_nil (of_decide_eq_true hc)]; rfl
  | cons k ks ih =>
    obtain ⟨hk, hks⟩ := List.nodup_cons.mp h
    rw [List.map_cons, List.sum_cons, ih hks, tierOf_add_classSum hk]

theorem sum_tierOf_tiersAbove (k : Stage) (cs : List Claim) :
    ((tiersAbove k).map fun j => tierOf j cs).sum = aboveSum k cs := by
  simp only [sum_tierOf (nodup_tiersAbove k), mem_tiersAbove, classSum, aboveSum]

theorem sum_tierOf_tiers (cs : List Claim) : (tiers.map fun k => tierOf k cs).sum = classSum Demands.p cs := by
  rw [sum_tierOf nodup_tiers, List.filter_eq_self.mpr fun c _ => decide_eq_true (mem_tiers c.stage)]

/-! ### PUMPING in its tiers (R54) -/

@[simp] theorem serveTier_rem (own : Claim) (cs : List Claim) (acc : Served) (k : Stage) :
    (serveTier own cs acc k).rem = acc.rem - tierOf k cs := by
  simp [serveTier, tierSum_eq_tierOf]

theorem serveTier_share_of_ne {own : Claim} {k : Stage} (h : own.stage ≠ k) (cs : List Claim) (acc : Served) :
    (serveTier own cs acc k).share = acc.share := by
  simp [serveTier, h]

theorem serveTier_share_own (own : Claim) (cs : List Claim) (acc : Served) :
    (serveTier own cs acc own.stage).share =
      acc.share + (serve acc.rem own.demands.p (tierOf own.stage cs)).share := by
  simp [serveTier, tierSum_eq_tierOf]

/-- Tiers taken in turn leave the remainder less the sums of them all. -/
theorem foldl_serveTier_rem (own : Claim) (cs : List Claim) (ks : List Stage) (acc : Served) :
    (ks.foldl (serveTier own cs) acc).rem = acc.rem - (ks.map fun k => tierOf k cs).sum := by
  induction ks generalizing acc with
  | nil => simp
  | cons k ks ih => simp [ih, Nat.sub_sub]

/-- Tiers without the own entry give it nothing. -/
theorem foldl_serveTier_share {own : Claim} {ks : List Stage} (h : own.stage ∉ ks) (cs : List Claim) (acc : Served) :
    (ks.foldl (serveTier own cs) acc).share = acc.share := by
  induction ks generalizing acc with
  | nil => rfl
  | cons k ks ih =>
    rw [List.foldl_cons, ih (List.not_mem_of_not_mem_cons h), serveTier_share_of_ne (List.ne_of_not_mem_cons h)]

theorem servePumping_rem (rem : Nat) (own : Claim) (cs : List Claim) :
    (servePumping rem own cs).rem = rem - classSum Demands.p cs := by
  rw [servePumping, foldl_serveTier_rem, sum_tierOf_tiers]

/-- The own share of PUMPING is served in the own tier, from what the tiers above it leave. -/
theorem servePumping_share (rem : Nat) (own : Claim) (cs : List Claim) :
    (servePumping rem own cs).share =
      (serve (rem - aboveSum own.stage cs) own.demands.p (tierOf own.stage cs)).share := by
  rw [servePumping, tiers_split own.stage, List.foldl_append, List.foldl_cons,
    foldl_serveTier_share (not_mem_tiersBelow _), serveTier_share_own, foldl_serveTier_rem, sum_tierOf_tiersAbove,
    foldl_serveTier_share (not_mem_tiersAbove _), Nat.zero_add]

/-! ### The four classes in order (R52 to R55) -/

/-- A pass in terms of the sums: each class is served from the capacity less the sums of the classes before it. -/
theorem serveAll_eq (usable : Nat) (own : Claim) (others : List Claim) :
    let cs := own :: others
    let rem1 := usable - classSum Demands.t cs
    let rem2 := rem1 - classSum Demands.m cs
    serveAll usable own others =
      ⟨⟨(serve usable own.demands.t (classSum Demands.t cs)).share,
        (serve rem1 own.demands.m (classSum Demands.m cs)).share,
        (serve (rem2 - aboveSum own.stage cs) own.demands.p (tierOf own.stage cs)).share,
        (serve (rem2 - classSum Demands.p cs) own.demands.l (classSum Demands.l cs)).share⟩,
        decide (usable < classSum Demands.t cs)⟩ := by
  simp only [serveAll, sumBy_eq_classSum, serve_rem, servePumping_rem, servePumping_share]

/-- Settles O39: a pass serves each class from what the whole sums before it leave, and each class has R52's two cases. -/
theorem passServesClasses : Obligations.PassServesClasses := by
  unfold Obligations.PassServesClasses
  intro usable own others
  rw [serveAll_eq]
  exact ⟨fun h => ⟨serve_share_of_le h, decide_eq_false (Nat.not_lt.mpr h)⟩,
    fun h => ⟨serve_share_of_lt h, decide_eq_true h⟩,
    serve_share_of_le, serve_share_of_lt, serve_share_of_le, serve_share_of_lt, serve_share_of_le, serve_share_of_lt⟩

end Sys2Proof.Machine
end

section
/-! PROOFS. LOOP_STEP (R67 to R70). First what the end of an event leaves of W, SETTLED and the loop timer, then the step of
W with its corrections, then what the loop step itself changes, then the event. -/

namespace Sys2Proof.Machine

open Sys2Proof

/-! ### What an event leaves of W and SETTLED (R67, R70) -/

/-- Wmax depends on nothing that passing time or the rest of an event changes. -/
theorem wantMax_of_stable {s t : State} (h : t.stable = s.stable) : t.wantMax = s.wantMax :=
  (congrArg State.wantMax h :)

theorem dry_of_stable {s t : State} (h : t.stable = s.stable) : t.level.dry.debounced = s.level.dry.debounced :=
  (congrArg (fun u : State => u.level.dry.debounced) h :)

theorem cutWant_want (s : State) :
    s.cutWant.pumps.want = if s.level.dry.debounced = .wet then min s.pumps.want s.wantMax else 0 := by
  unfold State.cutWant
  split <;> rfl

theorem cutWant_settled (s : State) :
    s.cutWant.pumps.settled = if s.level.dry.debounced = .wet then s.pumps.settled else false := by
  unfold State.cutWant
  split <;> rfl

theorem formWants_cut (b s : State) :
    (State.formWants b s).pumps.want = s.cutWant.pumps.want ∧
    (State.formWants b s).pumps.settled = s.cutWant.pumps.settled := by
  unfold State.formWants State.moveLead
  split <;> exact ⟨rfl, rfl⟩

@[simp] theorem resolveClosure_pumps (s : State) : s.resolveClosure.pumps = s.pumps := by
  obtain ⟨g, c, k, h⟩ := resolveClosure_shape s
  rw [h]

@[simp] theorem updateSag_pumps (s : State) : s.updateSag.pumps = s.pumps := by
  unfold State.updateSag
  split <;> rfl

/-- What comes before the wants within an event leaves W, SETTLED, Wmax and the dry float to them. -/
theorem cutWant_beforeWants (s : State) :
    s.formOrigins.updateSag.resolveClosure.cutWant.pumps.want = s.cutWant.pumps.want ∧
    s.formOrigins.updateSag.resolveClosure.cutWant.pumps.settled = s.cutWant.pumps.settled := by
  have hpumps : s.formOrigins.updateSag.resolveClosure.pumps = s.pumps := by
    rw [resolveClosure_pumps, updateSag_pumps]
    rfl
  have hstable : s.formOrigins.updateSag.resolveClosure.stable = s.stable :=
    stable_of_kept (by rw [kept_resolveClosure, kept_updateSag, kept_formOrigins])
  simp only [cutWant_want, cutWant_settled, hpumps, dry_of_stable hstable, wantMax_of_stable hstable, and_self]

theorem settleRunning_cut (b s : State) :
    (State.settleRunning b s).pumps.want = s.cutWant.pumps.want ∧
    (State.settleRunning b s).pumps.settled = s.cutWant.pumps.settled := by
  have agree := (PumpAgree.formWants b s).trans (PumpAgree.settleRunning b s)
  obtain ⟨hwant, hsettled⟩ := formWants_cut b s.formOrigins.updateSag.resolveClosure
  obtain ⟨hwant', hsettled'⟩ := cutWant_beforeWants s
  exact ⟨agree.want.trans (hwant.trans hwant'), agree.settled.trans (hsettled.trans hsettled')⟩

theorem settle_of_running {s : State} (b : State) (h : s.node.state.running = true) :
    State.settle b s = State.settleRunning b s := by
  unfold State.settle
  split
  case h_1 hn | h_2 hn => simp [hn, NodeState.running] at h
  case h_3 => rfl

theorem finish_pumps {s : State} (h : s.restartPending = false) : s.finish.pumps = s.pumps := by
  rw [finish_of_not_pending h]
  exact (congrArg State.pumps (copyRetained_retention { s with line := { s.line with replyLeft := false } }) :)

/-- The end of an event puts W and SETTLED under the dry float and Wmax and leaves the loop timer. -/
theorem endEvent_cut {s : State} (b : State) (hrun : s.node.state.running = true) (hp : s.restartPending = false) :
    (State.endEvent b s).pumps.want = s.cutWant.pumps.want ∧
    (State.endEvent b s).pumps.settled = s.cutWant.pumps.settled ∧
    (State.endEvent b s).pumps.loopTimer = s.pumps.loopTimer := by
  have hpumps : (State.endEvent b s).pumps = (State.settle b s).pumps :=
    finish_pumps ((settle_restartPending b s).trans hp)
  have hloop : (State.settle b s).pumps.loopTimer = s.pumps.loopTimer :=
    (congrArg (fun u : State => u.pumps.loopTimer) (kept_settle b s) :)
  obtain ⟨hwant, hsettled⟩ := settleRunning_cut b s
  rw [hpumps, hloop, settle_of_running b hrun]
  exact ⟨hwant, hsettled, rfl⟩

/-! ### The step of W (R68, R69) -/

theorem loopError_eq (s : State) :
    s.loopError =
      if s.level.level ≠ 65535 then (s.level.level : Int) - s.profile.setLevel
      else if 2 ≤ s.level.stage.num then (s.profile.narrowBand : Int) + 1
      else -((s.profile.narrowBand : Int) + 1) :=
  ite_congr (propext decide_eq_true_iff) (fun _ => rfl) (fun _ => rfl)

theorem settledAt_iff {p : Profile} {was : Bool} {e : Int} :
    settledAt p was e = true ↔ e.natAbs ≤ p.narrowBand ∨ (was = true ∧ e.natAbs ≤ p.wideBand) := by
  simp [settledAt]

/-- Within the narrow band, so at error 0, the loop is settled whatever it was. -/
theorem ne_zero_of_not_settledAt {p : Profile} {was : Bool} {e : Int} (h : ¬ settledAt p was e = true) : e ≠ 0 := by
  rintro rfl
  exact h (settledAt_iff.mpr (.inl (Nat.zero_le _)))

section StepWant

variable {w wmax size leadMin moved : Nat} {e : Int}

/-- The step of W is the movement, with its two corrections around the lead pump's minimum duty. -/
theorem stepWant_eq (he : e ≠ 0) (hm : moved = min (if 0 < e then w + size else w - size) wmax) :
    stepWant w wmax size leadMin e =
      if 0 < moved ∧ moved < leadMin ∧ 0 < e then leadMin else if moved < leadMin ∧ e < 0 then 0 else moved := by
  have hwmax : 0 < moved → wmax ≠ 0 := by omega
  have hmoved : (if 0 < e then min (w + size) wmax else if e < 0 then min (w - size) wmax else min w wmax) = moved := by
    rcases Int.lt_or_gt_of_ne he with hneg | hpos
    · rw [if_neg (Int.lt_asymm hneg)] at hm
      rw [if_neg (Int.lt_asymm hneg), if_pos hneg, hm]
    · rw [if_pos hpos] at hm
      rw [if_pos hpos, hm]
  have hstart : 0 < moved ∧ moved < leadMin ∧ 0 < e ∧ wmax ≠ 0 ↔ 0 < moved ∧ moved < leadMin ∧ 0 < e :=
    and_congr_right fun h0 => and_congr_right fun _ => and_iff_left (hwmax h0)
  simp only [stepWant, hmoved, hstart]

/-- The start correction: a want above 0 and below the minimum duty, on the way up, is raised to it. -/
theorem stepWant_of_start (hm : moved = min (if 0 < e then w + size else w - size) wmax)
    (he : 0 < e) (h0 : 0 < moved) (hlt : moved < leadMin) : stepWant w wmax size leadMin e = leadMin := by
  rw [stepWant_eq (Int.ne_of_gt he) hm, if_pos ⟨h0, hlt, he⟩]

/-- The stop correction: a want below the minimum duty, on the way down, becomes 0. -/
theorem stepWant_of_stop (hm : moved = min (if 0 < e then w + size else w - size) wmax)
    (he : e < 0) (hlt : moved < leadMin) : stepWant w wmax size leadMin e = 0 := by
  rw [stepWant_eq (Int.ne_of_lt he) hm, if_neg (by omega), if_pos ⟨hlt, he⟩]

/-- Where neither correction applies W is the movement. -/
theorem stepWant_of_neither (hm : moved = min (if 0 < e then w + size else w - size) wmax) (he : e ≠ 0)
    (h : leadMin ≤ moved ∨ (0 < e ∧ moved = 0)) : stepWant w wmax size leadMin e = moved := by
  rw [stepWant_eq he hm, if_neg (by omega), if_neg (by omega)]

end StepWant

/-! ### What a loop step does before the end of its event (R68 to R70) -/

theorem stepLoop_of_settled {s : State} (hwet : s.level.dry.debounced = .wet)
    (h : settledAt s.profile s.pumps.settled s.loopError = true) :
    s.stepLoop = { s with pumps := { s.pumps with settled := true } } := by
  rw [State.stepLoop, if_pos hwet, if_pos h]

theorem stepLoop_of_not_settled {s : State} (hwet : s.level.dry.debounced = .wet)
    (h : ¬ settledAt s.profile s.pumps.settled s.loopError = true) :
    s.stepLoop =
      { s with
        pumps := { s.pumps with
          settled := false
          want := stepWant s.pumps.want s.wantMax (stepSizeAt s.profile s.level.stage)
            (s.profile.pump s.pumps.lead).minDuty s.loopError } } := by
  rw [State.stepLoop, if_pos hwet, if_neg h]

/-- A loop step changes W and SETTLED alone. -/
theorem stepLoop_frame (s : State) :
    ∃ w b, s.stepLoop = { s with pumps := { s.pumps with want := w, settled := b } } := by
  unfold State.stepLoop
  split
  · dsimp only
    split <;> exact ⟨_, _, rfl⟩
  · exact ⟨_, _, rfl⟩

theorem stable_stepLoop (s : State) : s.stepLoop.stable = s.stable := by
  obtain ⟨w, b, h⟩ := stepLoop_frame s
  rw [h]
  rfl

/-! ### LOOP_STEP as an event (R67) -/

/-- The state a loop step acts on: the loop timer has reached its second and begins again. -/
def State.atLoopStep (s : State) : State :=
  let t := s.elapse (sec 1 - s.pumps.loopTimer)
  { t with pumps := { t.pumps with loopTimer := 0 } }

theorem loopEvent_of_running {s : State} (h : s.node.state.running = true) :
    s.loopEvent = State.endEvent (s.elapse (sec 1 - s.pumps.loopTimer)) s.atLoopStep.stepLoop := if_pos h

theorem stable_atLoopStep (s : State) : s.atLoopStep.stable = s.stable := stable_elapse _ s

@[simp] theorem atLoopStep_profile (s : State) : s.atLoopStep.profile = s.profile := elapse_profile _ s

@[simp] theorem atLoopStep_stage (s : State) : s.atLoopStep.level.stage = s.level.stage := elapse_stage _ s

@[simp] theorem atLoopStep_dry (s : State) : s.atLoopStep.level.dry = s.level.dry := elapse_dryFloat _ s

@[simp] theorem atLoopStep_want (s : State) : s.atLoopStep.pumps.want = s.pumps.want := elapse_want _ s

@[simp] theorem atLoopStep_settled (s : State) : s.atLoopStep.pumps.settled = s.pumps.settled := elapse_settled _ s

@[simp] theorem atLoopStep_lead (s : State) : s.atLoopStep.pumps.lead = s.pumps.lead := elapse_lead _ s

@[simp] theorem atLoopStep_loopTimer (s : State) : s.atLoopStep.pumps.loopTimer = 0 := rfl

@[simp] theorem atLoopStep_wantMax (s : State) : s.atLoopStep.wantMax = s.wantMax :=
  wantMax_of_stable (stable_atLoopStep s)

@[simp] theorem atLoopStep_loopError (s : State) : s.atLoopStep.loopError = s.loopError :=
  (congrArg State.loopError (stable_atLoopStep s) :)

section LoopEvent

variable {s : State} (hrun : s.node.state.running = true) (hp : s.restartPending = false)

include hp in
theorem stepLoop_restartPending : s.atLoopStep.stepLoop.restartPending = false := by
  obtain ⟨w, b, h⟩ := stepLoop_frame s.atLoopStep
  rw [h]
  exact (elapse_restartPending _ s).trans hp

include hrun hp in
/-- After LOOP_STEP W and SETTLED are those of the loop step under the dry float and Wmax, and the loop timer is 0. -/
theorem loopEvent_cut :
    s.loopEvent.pumps.want = s.atLoopStep.stepLoop.cutWant.pumps.want ∧
    s.loopEvent.pumps.settled = s.atLoopStep.stepLoop.cutWant.pumps.settled ∧ s.loopEvent.pumps.loopTimer = 0 := by
  have hpend := stepLoop_restartPending hp
  obtain ⟨w, b, hframe⟩ := stepLoop_frame s.atLoopStep
  have hstate : s.atLoopStep.stepLoop.node.state.running = true := by
    rw [hframe]
    exact (congrArg NodeState.running (elapse_nodeState _ s)).trans hrun
  have hloop : s.atLoopStep.stepLoop.pumps.loopTimer = 0 := by rw [hframe]; rfl
  rw [loopEvent_of_running hrun]
  obtain ⟨hwant, hsettled, htimer⟩ := endEvent_cut (s.elapse (sec 1 - s.pumps.loopTimer)) hstate hpend
  exact ⟨hwant, hsettled, htimer.trans hloop⟩

include hrun hp in
theorem stable_loopEvent : s.loopEvent.stable = s.stable := by
  rw [loopEvent_of_running hrun, stable_endEvent (stepLoop_restartPending hp), stable_stepLoop, stable_atLoopStep]

include hrun hp in
/-- Without a WET dry float W is 0 (R70). -/
theorem loopEvent_of_not_wet (hdry : s.level.dry.debounced ≠ .wet) :
    s.loopEvent.pumps.want = 0 ∧ s.loopEvent.pumps.settled = false := by
  obtain ⟨hwant, hsettled, -⟩ := loopEvent_cut hrun hp
  have hd : s.atLoopStep.stepLoop.level.dry.debounced ≠ .wet := by
    rwa [dry_of_stable (stable_stepLoop _), atLoopStep_dry]
  rw [cutWant_want, if_neg hd] at hwant
  rw [cutWant_settled, if_neg hd] at hsettled
  exact ⟨hwant, hsettled⟩

include hrun hp in
/-- With a WET dry float the loop step's own W stands within Wmax, and its SETTLED as decided. -/
theorem loopEvent_of_wet (hwet : s.level.dry.debounced = .wet) :
    s.loopEvent.pumps.want = min s.atLoopStep.stepLoop.pumps.want s.wantMax ∧
    s.loopEvent.pumps.settled = s.atLoopStep.stepLoop.pumps.settled := by
  obtain ⟨hwant, hsettled, -⟩ := loopEvent_cut hrun hp
  have hd : s.atLoopStep.stepLoop.level.dry.debounced = .wet := by
    rw [dry_of_stable (stable_stepLoop _), atLoopStep_dry, hwet]
  rw [cutWant_want, if_pos hd, wantMax_of_stable (stable_stepLoop _), atLoopStep_wantMax] at hwant
  rw [cutWant_settled, if_pos hd] at hsettled
  exact ⟨hwant, hsettled⟩

include hrun hp in
/-- A settled loop leaves W but for Wmax (R68, R69). -/
theorem loopEvent_of_settled (hwet : s.level.dry.debounced = .wet)
    (h : settledAt s.profile s.pumps.settled s.loopError = true) :
    s.loopEvent.pumps.settled = true ∧ s.loopEvent.pumps.want = min s.pumps.want s.wantMax := by
  obtain ⟨hwant, hsettled⟩ := loopEvent_of_wet hrun hp hwet
  rw [stepLoop_of_settled (by simpa using hwet) (by simpa using h)] at hwant hsettled
  exact ⟨hsettled, by simpa using hwant⟩

include hrun hp in
/-- A loop that is not settled steps W (R69). -/
theorem loopEvent_of_not_settled (hwet : s.level.dry.debounced = .wet)
    (h : ¬ settledAt s.profile s.pumps.settled s.loopError = true) :
    s.loopEvent.pumps.settled = false ∧
    s.loopEvent.pumps.want =
      min (stepWant s.pumps.want s.wantMax (stepSizeAt s.profile s.level.stage)
        (s.profile.pump s.pumps.lead).minDuty s.loopError) s.wantMax := by
  obtain ⟨hwant, hsettled⟩ := loopEvent_of_wet hrun hp hwet
  rw [stepLoop_of_not_settled (by simpa using hwet) (by simpa using h)] at hwant hsettled
  exact ⟨hsettled, by simpa using hwant⟩

end LoopEvent

/-- Settles O41: the end of the event only cuts what the loop step makes of W, which is the movement with its corrections. -/
theorem loopStepMovesWant : Obligations.LoopStepMovesWant := by
  unfold Obligations.LoopStepMovesWant
  intro s hrun hp
  obtain ⟨-, -, htimer⟩ := loopEvent_cut hrun hp
  refine ⟨s.loopEvent, rfl, htimer, loopEvent_of_not_wet hrun hp, ?wet, stable_loopEvent hrun hp⟩
  case wet =>
    intro e hwet he
    rw [← loopError_eq] at he
    subst he
    rw [← settledAt_iff]
    refine ⟨loopEvent_of_settled hrun hp hwet, fun hns => ?_⟩
    have hne := ne_zero_of_not_settledAt hns
    obtain ⟨hsettled, hwant⟩ := loopEvent_of_not_settled hrun hp hwet hns
    refine ⟨hsettled, fun size moved leadMin hsize hmoved hlead => ?_⟩
    change size = stepSizeAt s.profile s.level.stage at hsize
    rw [← hsize, ← hlead] at hwant
    rw [hwant]
    refine ⟨fun hpos h0 hlt => ?start, fun hneg hlt => ?stop, fun h => ?neither⟩
    case start => rw [stepWant_of_start hmoved hpos h0 hlt]
    case stop => rw [stepWant_of_stop hmoved hneg hlt, Nat.zero_min]
    case neither =>
      rw [stepWant_of_neither hmoved hne h]
      exact Nat.min_eq_left (hmoved ▸ Nat.min_le_right _ _)

end Sys2Proof.Machine
end

section
/-! PROOFS. COLLISION (R160 to R163). First what the end of an event leaves of the line and the counters, then how an entry
leaves the queue, then a collision case by case (give-up, supersession, retry), then the event. -/

namespace Sys2Proof.Machine

open Sys2Proof

/-! ### What the end of an event leaves of the line and the counters -/

theorem finish_counters {s : State} (h : s.restartPending = false) : s.finish.counters = s.counters := by
  rw [finish_of_not_pending h]
  exact (congrArg State.counters (copyRetained_retention { s with line := { s.line with replyLeft := false } }) :)

theorem finish_line {s : State} (h : s.restartPending = false) :
    s.finish.line = { s.line with replyLeft := false } := by
  rw [finish_of_not_pending h]
  exact (congrArg State.line (copyRetained_retention { s with line := { s.line with replyLeft := false } }) :)

theorem stable_finish {s : State} (h : s.restartPending = false) : s.finish.stable = s.stable :=
  stable_of_kept (kept_finish h)

/-- Time passing changes nothing of `stable`, whatever the counters are put to. -/
theorem stable_elapse_counters (d : Time) (s : State) (c : Counters) :
    State.stable { s.elapse d with counters := c } = State.stable { s with counters := c } :=
  congrArg (fun u : State => State.kept { u with counters := c }) (timeless_elapse d s)

/-! ### An entry leaves the queue (R154, R162) -/

theorem kept_leaveFlight (s : State) : s.leaveFlight.kept = s.kept := by
  unfold State.leaveFlight
  rw [kept_fillFlight]
  rfl

theorem leaveFlight_flightLeft (s : State) : s.flightLeft s.leaveFlight := by
  refine ⟨fun hnil => ?last, fun e es hcons => ?next⟩
  case last => simp [State.leaveFlight, State.fillFlight, hnil]
  case next => simp [State.leaveFlight, State.fillFlight, hcons]

/-- `flightLeft` speaks of the waiting entries before, and afterwards of the line but for its times and `replyLeft`. -/
theorem flightLeft_finish {s u t : State} (hp : t.restartPending = false) (hw : u.line.waiting = s.line.waiting)
    (h : u.flightLeft t) : s.flightLeft t.finish := by
  unfold State.flightLeft at *
  rw [finish_line hp, ← hw]
  exact h

/-! ### The collision, case by case (R160 to R163) -/

/-- The collision counted: by the attempt count and by its counter (R160). -/
def State.countCollision (s : State) : State :=
  { s with
    line := { s.line with attempts := s.line.attempts + 1 }
    counters := s.counters.raise .collisions }

/-- The eighth attempt gives up (R162). -/
theorem collide_of_giveUp {s : State} (f : Flight) (h : 7 ≤ s.line.attempts) :
    s.collide f = (s.countCollision.count .giveUps).leaveFlight :=
  if_pos (Nat.succ_le_succ h)

/-- The entry in flight is a STATUS that is no longer the newest, with the newer one's marker waiting (R163). -/
def State.superseded (f : Flight) (s : State) : Prop :=
  f.entry = .status ∧ s.line.newer = true ∧ .status ∈ s.line.waiting

/-- Before the eighth attempt such a STATUS gives way to the marker (R163). -/
theorem collide_of_superseded {f : Flight} {s : State} (hlt : s.line.attempts < 7) (h : s.superseded f) :
    s.collide f = s.countCollision.supersede := by
  obtain ⟨hentry, hnewer, hmem⟩ := h
  refine (if_neg (Nat.not_le.mpr (Nat.succ_lt_succ hlt))).trans (if_pos ?_)
  simp [hentry, hnewer, hmem]

/-- Before the eighth attempt any other entry waits for its retry (R161). -/
theorem collide_of_not_superseded {f : Flight} {s : State} (hlt : s.line.attempts < 7) (h : ¬ s.superseded f) :
    s.collide f = s.countCollision.backOff f := by
  refine (if_neg (Nat.not_le.mpr (Nat.succ_lt_succ hlt))).trans (if_neg fun hc => h ?_)
  simpa [State.superseded, and_assoc] using hc

theorem collide_restartPending (f : Flight) (s : State) : (s.collide f).restartPending = s.restartPending := by
  obtain ⟨l, c, h⟩ := collide_line f s
  rw [h]

/-- A give-up leaves what `kept` shows as counting the collision and the give-up has it. -/
theorem kept_collide_of_giveUp {s : State} (f : Flight) (h : 7 ≤ s.line.attempts) :
    (s.collide f).kept = (s.countCollision.count .giveUps).kept := by
  rw [collide_of_giveUp f h, kept_leaveFlight]

/-- Supersession and retry alike: the collision is counted, and the entry in flight waits with the new count (R161, R163). -/
theorem collide_of_lt {s : State} (f : Flight) (hlt : s.line.attempts < 7) :
    (s.collide f).counters = s.counters.raise .collisions ∧
    (s.collide f).line.attempts = s.line.attempts + 1 ∧
    (s.collide f).line.access = .backoff (backoffK s.node.station (s.line.attempts + 1)) ∧
    (s.collide f).kept = s.countCollision.kept := by
  by_cases h : s.superseded f
  · rw [collide_of_superseded hlt h]
    exact ⟨rfl, rfl, rfl, rfl⟩
  · rw [collide_of_not_superseded hlt h]
    exact ⟨rfl, rfl, rfl, rfl⟩

theorem collide_giveUps_of_giveUp {s : State} (f : Flight) (h : 7 ≤ s.line.attempts) :
    (s.collide f).counters.giveUps = bump s.counters.giveUps :=
  (congrArg (fun u : State => u.counters.giveUps) (kept_collide_of_giveUp f h) :)

/-- Every collision is counted (R160). -/
theorem collide_collisions (f : Flight) (s : State) : (s.collide f).counters.collisions = bump s.counters.collisions := by
  rcases Nat.lt_or_ge s.line.attempts 7 with hlt | hge
  · obtain ⟨hcounters, -⟩ := collide_of_lt f hlt
    rw [hcounters]
    rfl
  · exact (congrArg (fun u : State => u.counters.collisions) (kept_collide_of_giveUp f hge) :)

/-- Of what only events change, a collision changes its two counters alone. -/
theorem stable_collide (f : Flight) (s : State) :
    (s.collide f).stable =
      State.stable { s with
        counters := { s.counters with
          collisions := (s.collide f).counters.collisions, giveUps := (s.collide f).counters.giveUps } } := by
  refine stable_of_kept ?_
  rw [collide_collisions]
  rcases Nat.lt_or_ge s.line.attempts 7 with hlt | hge
  · obtain ⟨hcounters, -, -, hkept⟩ := collide_of_lt f hlt
    rw [hkept, hcounters]
    rfl
  · rw [kept_collide_of_giveUp f hge, collide_giveUps_of_giveUp f hge]
    rfl

/-! ### COLLISION as an event -/

theorem Line.transmitting_of_sent {l : Line} {f : Flight} (hf : l.flight = some f) (ha : l.access = .none)
    (hs : 0 < f.sent) : l.transmitting = true := by
  simp [Line.transmitting, hf, ha, hs]

theorem Flight.collides_iff {f : Flight} {readBack : Byte} {stopOk : Bool} :
    f.collides readBack stopOk = true ↔ readBack ≠ byteAt (f.frame.getD []) (f.sent - 1) ∨ stopOk = false :=
  Bool.or_eq_true_iff.trans (or_congr decide_eq_true_iff (Iff.of_eq (Bool.not_eq_true' stopOk)))

/-- Where the node transmits, a character that reads back differently is sent to its end and collides (R160). -/
theorem collision_of_collides {s : State} {f : Flight} {readBack : Byte} {stopOk : Bool} (hf : s.line.flight = some f)
    (ht : s.line.transmitting = true) (hc : f.collides readBack stopOk = true) :
    s.collision readBack stopOk = ((s.elapse (charTime - s.line.sinceOwn)).collide f).finish := by
  simp only [State.collision, hf, ht, hc, and_self, if_true]

/-- Settles O52: the time to the end of the character and the end of the event leave queue and counters as the collision's
case (give-up, supersession or retry) makes them. -/
theorem collisionsAreResolved : Obligations.CollisionsAreResolved := by
  unfold Obligations.CollisionsAreResolved
  intro readBack stopOk f s hp hf ha hs hc
  have hevent := collision_of_collides hf (Line.transmitting_of_sent hf ha hs) (Flight.collides_iff.mpr hc)
  have hstable := stable_elapse_counters (charTime - s.line.sinceOwn) s
  generalize hu : s.elapse (charTime - s.line.sinceOwn) = u at hevent hstable
  have hpend : (u.collide f).restartPending = false := by rw [collide_restartPending, ← hu, elapse_restartPending, hp]
  have hcounters : u.counters = s.counters := hu ▸ elapse_counters _ s
  have hwaiting : u.line.waiting = s.line.waiting := hu ▸ elapse_waiting _ s
  have hattempts : u.line.attempts = s.line.attempts := hu ▸ elapse_attempts _ s
  have hnewer : u.line.newer = s.line.newer := hu ▸ elapse_newer _ s
  have hstation : u.node.station = s.node.station := hu ▸ elapse_station _ s
  refine ⟨(u.collide f).finish, congrArg Host.Outcome.next hevent, ?counted, ?giveUp, ?waits, ?frame⟩
  case counted =>
    rw [finish_counters hpend, collide_collisions, hcounters]
    rfl
  case giveUp =>
    intro hge
    rw [← hattempts] at hge
    refine ⟨flightLeft_finish hpend hwaiting ?_, ?_⟩
    · rw [collide_of_giveUp f hge]
      exact leaveFlight_flightLeft (u.countCollision.count .giveUps)
    · rw [finish_counters hpend, collide_giveUps_of_giveUp f hge, hcounters]
      rfl
  case waits =>
    intro hlt
    rw [← hattempts] at hlt
    obtain ⟨hraised, hcount, haccess, -⟩ := collide_of_lt f hlt
    rw [finish_counters hpend, finish_line hpend, hraised, ← hcounters, ← hattempts, ← hwaiting, ← hnewer, ← hstation]
    refine ⟨rfl, rfl, hcount, haccess, fun hentry hnew hmem => ?superseded, fun hnot => ?retry⟩
    case superseded =>
      rw [collide_of_superseded hlt ⟨hentry, hnew, hmem⟩]
      exact ⟨rfl, rfl, rfl⟩
    case retry =>
      have hother : ¬ u.superseded f := by
        rintro ⟨hentry, hnew, hmem⟩
        simp [hentry, hnew, hmem] at hnot
      rw [collide_of_not_superseded hlt hother]
      exact ⟨rfl, rfl, rfl⟩
  case frame =>
    rw [stable_finish hpend, stable_collide, hstable, finish_counters hpend, hcounters]

end Sys2Proof.Machine
end

section
/-! PROOFS. QUERY, DUMP and DUMP_AND_ZERO (R177, R179). First the codes, the counters and the page items as numbers, then how
a REPLY joins the transmit queue, then an event that only answers, then the three commands. -/

namespace Sys2Proof.Machine

open Sys2Proof

/-! ### The codes and the counters (section 11.3, R179) -/

theorem codes_are : codesAre := by
  unfold codesAre
  decide

/-- The twenty counters are carried in the order of the counter table, two characters each. -/
theorem Counters.bytes_eq (c : Counters) : c.bytes = c.inOrder.flatMap (fun n => [byte (n / 256), byte n]) :=
  List.flatMap_eq_foldl.symm

/-! ### Conditions as bits -/

theorem bitsOf_nil : bitsOf [] = 0 := rfl

theorem bitsOf_cons (b : Bool) (bs : List Bool) : bitsOf (b :: bs) = bitIf b 0 + 2 * bitsOf bs := rfl

/-- The bit of place k weighs `2 ^ k`. -/
theorem bitIf_eq_mul (b : Bool) (k : Nat) : bitIf b k = 2 ^ k * bitIf b 0 := by cases b <;> simp [bitIf]

theorem Origins.code_eq (o : Origins) : o.code = bitsOf [o.level, o.outside, o.command] := by
  simp only [Origins.code, bitsOf_cons, bitsOf_nil, bitIf_eq_mul _ 1, bitIf_eq_mul _ 2]
  omega

/-! ### The items of the pages (R177, section 11.5) -/

theorem page0_eq (s : State) : s.page0 = (s.queryItems 0).map byte := by
  have hflags (a b c d e f g : Bool) :
      bitIf a 0 + bitIf b 1 + bitIf c 2 + bitIf d 3 + bitIf e 4 + bitIf f 5 + bitIf g 6 =
        bitsOf [a, b, c, d, e, f, g] := by
    simp only [bitsOf_cons, bitsOf_nil, bitIf_eq_mul _ 1, bitIf_eq_mul _ 2, bitIf_eq_mul _ 3,
      bitIf_eq_mul _ 4, bitIf_eq_mul _ 5, bitIf_eq_mul _ 6]
    omega
  rw [State.page0, hflags]
  rfl

theorem page1_eq (s : State) : s.page1 = (s.queryItems 1).map byte := rfl

/-- A key drive's code is its direction's, 80h added while key-stalled. -/
theorem keyCode_some (d : Dir) (stalled : Bool) :
    keyCode (some d) stalled = dirCode (some d) + if stalled then 128 else 0 := by
  cases d <;> cases stalled <;> rfl

theorem Gate.pageBytes_eq (g : Gate) : g.pageBytes = g.queryItems.map byte := by
  rw [Gate.pageBytes, Gate.queryItems]
  cases g.keyDrive with
  | none => cases g.backoff <;> rfl
  | some d =>
    rw [keyCode_some]
    cases g.backoff <;> rfl

theorem page2_eq (s : State) : s.page2 = (s.queryItems 2).map byte := by
  rw [State.page2, State.queryItems, State.reportedGate, Origins.code_eq, Origins.code_eq, Gate.pageBytes_eq]
  cases s.gateRead <;> cases s.closure.reopenHold <;> rfl

theorem lampPage_low_eq (s : State) : s.lampPage [0, 1, 2, 3] = (s.queryItems 3).map byte := rfl

theorem lampPage_high_eq (s : State) : s.lampPage [4, 5, 6, 7] = (s.queryItems 4).map byte := rfl

theorem page5_eq (s : State) : s.page5 = (s.queryItems 5).map byte := by
  unfold State.page5 Line.flightKind State.queryItems
  cases s.line.flight with
  | none => rfl
  | some f =>
    obtain ⟨entry, frame, sent⟩ := f
    cases entry <;> rfl

theorem pageItems_eq {page : Byte} (h : page.toNat ≤ 5) (s : State) :
    s.pageItems page = (s.queryItems page.toNat).map byte := by
  unfold State.pageItems
  generalize page.toNat = n at h
  match n, h with
  | 0, _ => exact page0_eq s
  | 1, _ => exact page1_eq s
  | 2, _ => exact page2_eq s
  | 3, _ => exact lampPage_low_eq s
  | 4, _ => exact lampPage_high_eq s
  | 5, _ => exact page5_eq s

/-! ### The node states that transmit (R165) -/

theorem NodeState.transmits_iff (n : NodeState) :
    n.transmits = true ↔ n = .listen ∨ n = .active ∨ n = .isolated ∨ n = .fallback := by
  cases n <;> decide

theorem NodeState.ne_start_of_transmits {n : NodeState} (h : n.transmits = true) : n ≠ .start := by
  rintro rfl
  exact absurd h (by decide)

/-! ### A REPLY joins the transmit queue (R154, R156) -/

/-- Filling the flight counts deferrals only. -/
theorem fillFlight_counters (s : State) : { s.fillFlight.counters with deferrals := s.counters.deferrals } = s.counters := by
  unfold State.fillFlight
  split
  · rfl
  · split
    · rfl
    · cases s.line.busyWithOther <;> rfl

/-- A REPLY's arrival counts a deferral or a queue drop, and nothing else. -/
theorem enqueueReply_counters (p : List Byte) (s : State) :
    { (s.enqueueReply p).counters with
      deferrals := s.counters.deferrals, queueDrops := s.counters.queueDrops } = s.counters := by
  unfold State.enqueueReply
  split
  · split
    · exact congrArg (fun c : Counters => { c with queueDrops := s.counters.queueDrops }) (fillFlight_counters _)
    · rfl
  · rfl

theorem enqueueReply_of_room {s : State} (hn : s.node.state.transmits = true) (h : s.line.waiting.length < 4)
    (p : List Byte) :
    s.enqueueReply p =
      State.fillFlight { s with line := { s.line with waiting := s.line.waiting ++ [.reply p] } } := by
  rw [State.enqueueReply, if_pos hn, if_pos h]

/-- With an empty queue the REPLY goes into flight, and a deferral is counted where the line is busy. -/
theorem enqueueReply_of_empty {s : State} (hn : s.node.state.transmits = true) (hf : s.line.flight = none)
    (hw : s.line.waiting = []) (p : List Byte) :
    s.enqueueReply p =
      { s with
        line := { s.line with
          waiting := [], flight := some ⟨.reply p, none, 0⟩, attempts := 0, newer := false, access := .defer }
        counters := s.counters.raiseIf .deferrals s.line.busyWithOther } := by
  rw [enqueueReply_of_room hn (by simp [hw])]
  simp only [State.fillFlight, hf, hw, List.nil_append]
  rfl

/-- With an entry in flight the REPLY joins behind those that wait. -/
theorem enqueueReply_of_flight {s : State} (hn : s.node.state.transmits = true) (hf : s.line.flight ≠ none)
    (h : s.line.waiting.length < 4) (p : List Byte) :
    s.enqueueReply p = { s with line := { s.line with waiting := s.line.waiting ++ [.reply p] } } := by
  rw [enqueueReply_of_room hn h, State.fillFlight]
  split
  · rfl
  next hnone => exact absurd hnone hf

theorem enqueueReply_of_full {s : State} (hn : s.node.state.transmits = true) (h : 4 ≤ s.line.waiting.length)
    (p : List Byte) :
    s.enqueueReply p =
      { s with
        line := { s.line with replyLeft := s.line.replyLeft || (Entry.reply p).isRestartReply }
        counters := s.counters.raise .queueDrops } := by
  rw [State.enqueueReply, if_pos hn, if_neg (Nat.not_lt.mpr h)]

theorem busyWithOther_iff (s : State) : s.line.busyWithOther = true ↔ s.busyAfter 0 := by
  rw [Line.busyWithOther, Bool.and_eq_true, decide_eq_true_iff, decide_eq_true_iff]
  exact and_comm

/-- Counting a deferral where the line is busy is what `deferred` says. -/
theorem deferred_raiseIf {s t : State}
    (h : t.counters.deferrals = (s.counters.raiseIf .deferrals s.line.busyWithOther).deferrals) :
    s.deferred (s.busyAfter 0) t := by
  unfold State.deferred
  rw [h, ← busyWithOther_iff]
  cases s.line.busyWithOther
  · exact ⟨fun hb => absurd hb Bool.false_ne_true, fun _ => rfl⟩
  · exact ⟨fun _ => rfl, fun hb => absurd rfl hb⟩

/-- In a node state that transmits, a REPLY is handed to the line controller as R156 says. -/
theorem enqueueReply_repliedTo {s : State} (hn : s.node.state.transmits = true) (p : List Byte) :
    s.repliedTo p (s.enqueueReply p) := by
  refine ⟨fun hf hw => ?empty, fun hf => ?inFlight, fun hfull => ?full⟩
  case empty =>
    rw [enqueueReply_of_empty hn hf hw]
    exact ⟨rfl, rfl, rfl, deferred_raiseIf rfl⟩
  case inFlight =>
    rcases Nat.lt_or_ge s.line.waiting.length 4 with hroom | hfull
    · rw [enqueueReply_of_flight hn hf hroom]
      exact ⟨rfl, fun _ => ⟨rfl, rfl, rfl⟩⟩
    · rw [enqueueReply_of_full hn hfull]
      exact ⟨rfl, fun hroom => absurd hroom (Nat.not_lt.mpr hfull)⟩
  case full =>
    rw [enqueueReply_of_full hn hfull]
    exact ⟨rfl, rfl, rfl⟩

/-! ### An event that only answers (R168) -/

theorem answer_restartPending (d : Addressing) (p : List Byte) (s : State) :
    (s.answer d p).restartPending = s.restartPending := by
  obtain ⟨l, c, h⟩ := answer_line d p s
  rw [h]

theorem answer_nodeState (d : Addressing) (p : List Byte) (s : State) : (s.answer d p).node.state = s.node.state := by
  obtain ⟨l, c, h⟩ := answer_line d p s
  rw [h]

theorem answer_counters (d : Addressing) (p : List Byte) (s : State) :
    { (s.answer d p).counters with
      deferrals := s.counters.deferrals, queueDrops := s.counters.queueDrops } = s.counters := by
  cases d
  · exact enqueueReply_counters p s
  · rfl

/-- `repliedTo` speaks of the counters and of the line but for `replyLeft`, which the end of an event leaves alone. -/
theorem repliedTo_finish {s t : State} {p : List Byte} (hp : t.restartPending = false) (h : s.repliedTo p t) :
    s.repliedTo p t.finish := by
  unfold State.repliedTo State.deferred at *
  rw [finish_line hp, finish_counters hp]
  exact h

/-- Outside START the domain holds the counters as the event leaves them (R188). -/
theorem finish_retention_counters {s : State} (hn : s.node.state ≠ .start) (hp : s.restartPending = false) :
    s.finish.retention.items.counters = s.finish.counters := by
  rw [finish_of_not_pending hp]
  unfold State.copyRetained
  split
  next hs => exact absurd hs hn
  next =>
    simp only [State.retainedItems]
    split
    next hs => exact absurd hs hn
    all_goals rfl

section AnswerEvent

variable {s : State} (hp : s.restartPending = false) (dest : Addressing) (p : List Byte)

include hp in
theorem stable_answer_finish : (s.answer dest p).finish.stable = s.stable :=
  (stable_finish ((answer_restartPending dest p s).trans hp)).trans (stable_of_kept (kept_answer dest p s))

include hp in
theorem answer_finish_addressed (hn : s.node.state.transmits = true) (hd : dest = .addressed) :
    s.repliedTo p (s.answer dest p).finish := by
  subst hd
  exact repliedTo_finish ((answer_restartPending .addressed p s).trans hp) (enqueueReply_repliedTo hn p)

include hp in
/-- A broadcast command gets no REPLY: counters and queue stand. -/
theorem answer_finish_broadcast (hd : dest = .broadcast) :
    (s.answer dest p).finish.counters = s.counters ∧ (s.answer dest p).finish.line.flight = s.line.flight ∧
      (s.answer dest p).finish.line.waiting = s.line.waiting := by
  subst hd
  have hline : (s.answer .broadcast p).finish.line = { s.line with replyLeft := false } := finish_line hp
  exact ⟨finish_counters hp, by rw [hline], by rw [hline]⟩

include hp in
theorem answer_finish_retention_counters (hn : s.node.state.transmits = true) :
    (s.answer dest p).finish.retention.items.counters = (s.answer dest p).finish.counters := by
  refine finish_retention_counters ?_ ((answer_restartPending dest p s).trans hp)
  rw [answer_nodeState]
  exact NodeState.ne_start_of_transmits hn

include hp in
/-- From a zeroed bank the starts and the closures stay 0, whatever the REPLY's arrival counts. -/
theorem answer_finish_zeroed (h : s.counters = Counters.zero) :
    (s.answer dest p).finish.counters.pump1Starts = 0 ∧ (s.answer dest p).finish.counters.pump2Starts = 0 ∧
      (s.answer dest p).finish.counters.gateClosures = 0 := by
  have hbank := answer_counters dest p s
  rw [h] at hbank
  rw [finish_counters ((answer_restartPending dest p s).trans hp)]
  exact ⟨(congrArg Counters.pump1Starts hbank :), (congrArg Counters.pump2Starts hbank :),
    (congrArg Counters.gateClosures hbank :)⟩

end AnswerEvent

/-! ### The decision of a command (R169, R170) -/

/-- A command that FALLBACK accepts too is judged in every node state that transmits. -/
theorem verdict_of_transmits {s : State} {c : MaintCommand} (hn : s.node.state.transmits = true)
    (hf : acceptedInFallback c = true) : s.verdict (.command c) = s.judge c := by
  unfold State.verdict
  rcases (NodeState.transmits_iff _).mp hn with h | h | h | h
  case inr.inr.inr => simp only [h, hf, if_true]
  all_goals simp only [h]

/-- Where its arguments fit and no rule of its own refuses it, such a command is taken, and the event ends. -/
theorem maintain_of_accepted {s : State} {c : MaintCommand} (hn : s.node.state.transmits = true)
    (hf : acceptedInFallback c = true) (hfit : argumentsFit s.profile c = true) (hr : s.refusesCommand c = false)
    (dest : Addressing) : s.maintain dest c = (State.accept dest c s s).finish := by
  have hact : s.verdict (.command c) = .act c := by
    rw [verdict_of_transmits hn hf, State.judge, hfit, hr]
    rfl
  rw [State.maintain, State.takeCommand, hact]

/-! ### The three commands -/

section Commands

variable {s : State} (hn : s.node.state.transmits = true)

include hn in
theorem exec_query {page : Byte} (hpage : page.toNat ≤ 5) (dest : Addressing) :
    exec (.query dest page) s = .next (s.answer dest ([0x30#8, 0x00#8, page] ++ s.pageItems page)).finish :=
  congrArg Host.Outcome.next (maintain_of_accepted (c := .query page) hn rfl (decide_eq_true hpage) rfl dest)

include hn in
theorem exec_dump (dest : Addressing) :
    exec (.dump dest) s = .next (s.answer dest ([0x31#8, 0x00#8] ++ s.counters.bytes)).finish :=
  congrArg Host.Outcome.next (maintain_of_accepted hn rfl rfl rfl dest)

include hn in
/-- DUMP_AND_ZERO answers with the counters as they stood, from the state in which they are 0. -/
theorem exec_dumpAndZero (dest : Addressing) :
    exec (.dumpAndZero dest) s =
      .next
        (State.answer dest ([0x32#8, 0x00#8] ++ s.counters.bytes) { s with counters := Counters.zero }).finish :=
  congrArg Host.Outcome.next (maintain_of_accepted hn rfl rfl rfl dest)

end Commands

/-- Settles O58: each of the three commands is an event that only answers, DUMP_AND_ZERO from the zeroed bank. -/
theorem queryAndDumps : Obligations.QueryAndDumps := by
  unfold Obligations.QueryAndDumps
  intro page s hstate hp
  have hn : s.node.state.transmits = true := (NodeState.transmits_iff _).mpr hstate
  refine ⟨codes_are, fun hpage => pageItems_eq hpage s, s.counters.bytes_eq, fun dest hpage => ?query,
    fun dest => ?dump, fun dest => ?dumpAndZero⟩
  case query =>
    exact ⟨_, exec_query hn hpage dest, stable_answer_finish hp dest _, answer_finish_addressed hp dest _ hn,
      fun hd => (answer_finish_broadcast hp dest _ hd).2⟩
  case dump =>
    exact ⟨_, exec_dump hn dest, stable_answer_finish hp dest _, answer_finish_addressed hp dest _ hn,
      fun hd => (answer_finish_broadcast hp dest _ hd).2⟩
  case dumpAndZero =>
    have hz : State.restartPending { s with counters := Counters.zero } = false := hp
    obtain ⟨hstarts1, hstarts2, hclosures⟩ := answer_finish_zeroed hz dest ([0x32#8, 0x00#8] ++ s.counters.bytes) rfl
    exact ⟨_, exec_dumpAndZero hn dest, stable_answer_finish hz dest _, hstarts1, hstarts2, hclosures,
      answer_finish_retention_counters hz dest _ hn, answer_finish_addressed hz dest _ hn,
      answer_finish_broadcast hz dest _⟩

end Sys2Proof.Machine
end
